-- ==== Sys2Proof/Word.lean ====
section
/-! DEFINITION. The widths of the block's values (spec/00_scope.md R5, R7; spec/30_encoding.md R70, R71). One-bit values are `Bool`: `true` is 1 and `false` is 0 (R7). All arithmetic on these types is modulo 2^width (R9). -/

namespace Sys2Proof

/-- A command word: 64 bits, delivered whole (R70). -/
abbrev Word := BitVec 64

/-- Eight bits: a sample window (R22), or one byte of a host bus transfer (R51). -/
abbrev Byte := BitVec 8

/-- The 8-bit `idx` operand: a filter index `f`, or a target handle `h` (R72, R74). -/
abbrev Handle := BitVec 8

/-- TICK_W = 32 bits: `tick_counter`, `period`, `next_due` (R5, R28). -/
abbrev Tick := BitVec 32

end Sys2Proof
end

