-- ==== Sys2Proof/Config.lean ====
section
/-! DEFINITION. What an implementation fixes and what the environment leaves free (spec/00_scope.md R5, spec/92_eei_decisions.md D7, D8, D21, D25). NF and CAP are NOT constants here: they are the sizes of the two register files of a state, so that a statement over every state is a statement over every NF and CAP; only the values of the one state after reset are named. -/

namespace Sys2Proof.Config

/-- NF in `State.reset`: R5 leaves NF OPEN; 2 is the value of spec/95_test_vectors.md. DESIGN CHOICE, unsafe (log 2). -/
def nfAtReset : Nat := 2

/-- CAP in `State.reset`: the default of R5. DESIGN CHOICE, unsafe (log 3). -/
def capAtReset : Nat := 8

/-- The orders in which a host bus may carry the bytes of a command word (R5, R51). -/
inductive ByteOrder where
  /-- The byte at bits [7:0] comes first. -/
  | little
  /-- The byte at bits [63:56] comes first. -/
  | big
deriving DecidableEq, Repr, Inhabited

/-- HOST_BYTE_ORDER: OPEN (R5, D21); no body, so no proof can see which it is (log 9). -/
opaque hostByteOrder : ByteOrder

/-- The raw level of filter `f`'s input at draw number `draw`, where the state lines up no sample for it: a FREE VALUE, no body (R62, D25; log 4). -/
opaque rawLevel (draw : Nat) (f : Handle) : Bool

end Sys2Proof.Config
end

