-- ==== Sys2Proof/Syntax.lean ====
section
/-! DEFINITION. The eight commands of spec/opcode_table.json (spec/30_encoding.md R73), operands at the widths of R72. -/

namespace Sys2Proof

/-- One constructor per row of the opcode table. -/
inductive Instr where
  /-- FLT_INIT f, pol: construct filter `f`; `pol` true is active-high (R102). -/
  | fltInit (f : Handle) (pol : Bool)
  /-- FLT_ADV f: advance filter `f` once (R103). -/
  | fltAdv (f : Handle)
  /-- FLT_ACT f: is filter `f` active? (R104). -/
  | fltAct (f : Handle)
  /-- FLT_CRISE f: read and clear the rising-edge latch (R105). -/
  | fltCrise (f : Handle)
  /-- FLT_CFALL f: read and clear the falling-edge latch (R106). -/
  | fltCfall (f : Handle)
  /-- SCH_INST: the handle of the one scheduler (R140). -/
  | schInst
  /-- SCH_REG h, P: register target `h` with period `P` (R141). -/
  | schReg (h : Handle) (P : Tick)
  /-- SCH_TICK: one base tick (R142). -/
  | schTick
deriving DecidableEq, Repr

end Sys2Proof
end

