-- ==== Sys2Proof/Decode.lean ====
section
/-! DEFINITION. Command words: the fields (spec/30_encoding.md R71), the mask and match table (R73), Decode (R75, R76), the encoder, and how a host bus carries a word as bytes (spec/20_memory.md R51, R52). -/

namespace Sys2Proof

/-! ### The fields of format CMD (R71) -/

/-- `op`, bits [7:0]. -/
def opField (w : Word) : BitVec 8 := w.extractLsb' 0 8

/-- `idx`, bits [15:8]. -/
def idxField (w : Word) : Handle := w.extractLsb' 8 8

/-- `rsv`, bits [31:16]. -/
def rsvField (w : Word) : BitVec 16 := w.extractLsb' 16 16

/-- `imm`, bits [63:32]. -/
def immField (w : Word) : BitVec 32 := w.extractLsb' 32 32

/-- `pol`, bit 32 (R72). -/
def polField (w : Word) : Bool := w.getLsbD 32

/-- `word = {imm, rsv, idx, op}` with `rsv = 0` (R71). -/
def packWord (imm : BitVec 32) (idx : Handle) (op : BitVec 8) : Word :=
  imm ++ 0#16 ++ idx ++ op

/-! ### The opcode map (R73) -/

/-- One row of the opcode map: a word spells the command when `w &&& mask = pattern`. -/
structure OpcodeRow where
  mnemonic : String
  pattern : Word
  mask : Word
  /-- The command with the operands of R72. -/
  build : Word → Instr

/-- The table of R73, in its order. -/
def opcodeTable : List OpcodeRow :=
  [ ⟨"FLT_INIT",  0x0000000000000001#64, 0xFFFFFFFEFFFF00FF#64, fun w => .fltInit (idxField w) (polField w)⟩,
    ⟨"FLT_ADV",   0x0000000000000002#64, 0xFFFFFFFFFFFF00FF#64, fun w => .fltAdv (idxField w)⟩,
    ⟨"FLT_ACT",   0x0000000000000003#64, 0xFFFFFFFFFFFF00FF#64, fun w => .fltAct (idxField w)⟩,
    ⟨"FLT_CRISE", 0x0000000000000004#64, 0xFFFFFFFFFFFF00FF#64, fun w => .fltCrise (idxField w)⟩,
    ⟨"FLT_CFALL", 0x0000000000000005#64, 0xFFFFFFFFFFFF00FF#64, fun w => .fltCfall (idxField w)⟩,
    ⟨"SCH_INST",  0x0000000000000010#64, 0xFFFFFFFFFFFFFFFF#64, fun _ => .schInst⟩,
    ⟨"SCH_REG",   0x0000000000000011#64, 0x00000000FFFF00FF#64, fun w => .schReg (idxField w) (immField w)⟩,
    ⟨"SCH_TICK",  0x0000000000000012#64, 0xFFFFFFFFFFFFFFFF#64, fun _ => .schTick⟩ ]

/-- Does the word spell the row's command? (R73). -/
def OpcodeRow.matches (r : OpcodeRow) (w : Word) : Bool := w &&& r.mask == r.pattern

/-- Why a word is illegal, in the order of R76's list; the block reports every one of them as ILLEGAL_CMD. -/
inductive DecodeError where
  /-- `op` is no opcode of R73. -/
  | unknownOpcode
  /-- `rsv` is not 0. -/
  | reservedBitsSet
  /-- An `imm` bit that the command does not use is set, or `idx` is set in SCH_INST or SCH_TICK. -/
  | unusedOperandSet
deriving DecidableEq, Repr

/-- The name of an illegal word's defect (R76). -/
def illegalReason (w : Word) : DecodeError :=
  if opField w ∈ opcodeTable.map (fun r => opField r.pattern) then
    if rsvField w = 0 then .unusedOperandSet else .reservedBitsSet
  else .unknownOpcode

/-- Decode (R75): the first row that matches; a word that matches none is illegal. Total on every word. -/
def decode (w : Word) : Except DecodeError Instr :=
  match opcodeTable.find? (·.matches w) with
  | some r => .ok (r.build w)
  | none => .error (illegalReason w)

/-- The word of a command (R71, R73): the unused fields are 0. -/
def encode : Instr → Word
  | .fltInit f pol => packWord (BitVec.zeroExtend 32 (BitVec.ofBool pol)) f 0x01#8
  | .fltAdv f => packWord 0 f 0x02#8
  | .fltAct f => packWord 0 f 0x03#8
  | .fltCrise f => packWord 0 f 0x04#8
  | .fltCfall f => packWord 0 f 0x05#8
  | .schInst => packWord 0 0 0x10#8
  | .schReg h P => packWord P h 0x11#8
  | .schTick => packWord 0 0 0x12#8

/-- The instruction the decoder reads from the word whose low `nbits` bits are `w`'s and whose other bits are 0. -/
def decodeTableWord (nbits w : Nat) : Option Instr :=
  (decode (BitVec.ofNat 64 (w % 2 ^ nbits))).toOption

/-! ### A host bus that carries bytes (R51, R52) -/

/-- Bytes, lowest first, as one number of 64 bits. -/
def packBytes : List Byte → Word
  | [] => 0
  | b :: bs => (packBytes bs <<< 8) ||| b.setWidth 64

/-- The word a transfer of `bytes` delivers in byte order `o`: only a transfer of 8 bytes delivers a whole word (R52). -/
def wordOfBytes (o : Config.ByteOrder) (bytes : List Byte) : Option Word :=
  if bytes.length = 8 then
    match o with
    | .little => some (packBytes bytes)
    | .big => some (packBytes bytes.reverse)
  else none

/-- The 8 bytes of a word in byte order `o`, in the order they are carried. -/
def bytesOfWord (o : Config.ByteOrder) (w : Word) : List Byte :=
  let low := (List.range 8).map fun k => w.extractLsb' (8 * k) 8
  match o with
  | .little => low
  | .big => low.reverse

end Sys2Proof
end

