-- ==== Sys2Proof/Machine/State.lean ====
section
/-! DEFINITION. The block's state (spec/10_state.md R20-R39), what its agents present to it (spec/00_scope.md R6, spec/20_memory.md R57, R62), and reset (R43-R45). Plain data; no memory and no program counter exist (R35, R50). -/

namespace Sys2Proof.Machine

/-- One debounce filter instance (R20-R26). -/
structure DebounceFilter where
  /-- Constructed by FLT_INIT since reset (R20). -/
  constructed : Bool
  /-- The raw level that counts as pressed: true is active-high (R21). -/
  activeLevel : Bool
  /-- The last 8 raw samples, bit 0 newest (R22). -/
  window : Byte
  /-- The debounced RAW level, not the pressed flag (R23, C1). -/
  state : Bool
  /-- The debounced level at the previous evaluation (R24). -/
  prevState : Bool
  /-- `rising_latched` (R25). -/
  rise : Bool
  /-- `falling_latched` (R26). -/
  fall : Bool
deriving DecidableEq, Repr

/-- One entry of the scheduler's registry (R30). -/
structure Slot where
  target : Handle
  period : Tick
  nextDue : Tick
deriving DecidableEq, Repr

/-- The agents that present command words (R6). The block executes a word the same whichever agent presents it (R81, R190), so no operation reads the tag. -/
inductive Agent where
  | host
  | tickSource
deriving DecidableEq, Repr

/-- One thing presented to the block, in the total order of R57. -/
inductive Input where
  /-- A whole 64-bit command word (R52). -/
  | command (agent : Agent) (word : Word)
  /-- A host bus transfer of bytes; only a whole word presents a command (R51, R52). -/
  | transfer (agent : Agent) (bytes : List Byte)
  /-- The reset input: a step of its own (R210). -/
  | reset
deriving DecidableEq, Repr

/-- The block, its outputs, and what its agents have lined up. NF is the number of `filters` and CAP the number of `slots` (R5): parameters, which no step changes. -/
structure State where
  /-- The NF filter instances, indexed by `f` in 0..NF-1. -/
  filters : List DebounceFilter
  /-- Elapsed base ticks (R28). -/
  tickCounter : Tick
  /-- Slots in use (R29). -/
  count : Nat
  /-- The CAP entries of the registry; entries `0 .. count-1` are in use (R30, R31). -/
  slots : List Slot
  /-- 0 none, 1 ILLEGAL_CMD, 2 BAD_INDEX, 3 UNCONSTRUCTED (R32). -/
  faultCode : BitVec 4
  /-- The word that faulted; meaningful while `faultCode` is not 0 (R33). -/
  faultCmd : Word
  /-- The result output of the last command (R37). Model's own field: log 8. -/
  res : Bool
  /-- The dispatch trace output of the last command, in fire order (R39). Model's own field: log 8. -/
  trace : List Handle
  /-- What the agents present next, first in front: the total order of R57. Model's own field: log 1. -/
  inputs : List Input
  /-- The raw samples the environment has lined up, in draw order (R62). Model's own field: log 4. -/
  rawDraws : List Bool
  /-- How many raw draws were made: the argument of the free value. Model's own field: log 4. -/
  drawCount : Nat
deriving DecidableEq, Repr

/-- The three faults a command can raise (R180). They are recorded in the state, where they halt the block; they do not stop the model. -/
inductive FaultCause where
  /-- The word matches no row of R73. -/
  | illegalCmd
  /-- A filter command names f >= NF. -/
  | badIndex
  /-- The filter named is not constructed. -/
  | unconstructed
deriving DecidableEq, Repr

/-- Reasons for the machine to stop. There are none: a fault of this block is a NEXT state with the fault registers written and the block halted (R182, R183), and every command has an effect in every state. Safe. -/
inductive Fault where
deriving DecidableEq, Repr

/-- Reasons to give an instruction no meaning. -/
inductive Refusal where
  /-- An instruction of the table without a meaning: raised by no arm of `exec` (all eight are modelled). Safe. -/
  | notModelled (mnemonic : String)
deriving DecidableEq, Repr

/-- A filter after reset: not constructed (R43). The other fields are UNSPECIFIED and unobservable; 0 is a DESIGN CHOICE, unsafe (log 5). -/
def DebounceFilter.reset : DebounceFilter :=
  { constructed := false, activeLevel := false, window := 0, state := false, prevState := false,
    rise := false, fall := false }

/-- A slot after reset: UNSPECIFIED and unobservable (R44); 0 is a DESIGN CHOICE, unsafe (log 6). -/
def Slot.reset : Slot := { target := 0, period := 0, nextDue := 0 }

/-- The block right after reset (R43-R45), for any NF and CAP, with nothing lined up by its agents. `faultCmd` is UNSPECIFIED there; 0 is a DESIGN CHOICE, unsafe (log 7). -/
def State.resetWith (nf cap : Nat) : State :=
  { filters := List.replicate nf DebounceFilter.reset
    tickCounter := 0
    count := 0
    slots := List.replicate cap Slot.reset
    faultCode := 0
    faultCmd := 0
    res := false
    trace := []
    inputs := []
    rawDraws := []
    drawCount := 0 }

/-- The machine right after reset, at the NF and CAP that Config names (log 2, log 3). -/
def State.reset : State := State.resetWith Config.nfAtReset Config.capAtReset

end Sys2Proof.Machine
end

