-- ==== Sys2Proof/Machine/Ops.lean ====
section
/-! DEFINITION. The named operations every command uses: the parameters NF and CAP of a state, reading and writing a filter, a slot and the outputs, the raw draw (spec/20_memory.md R62), fault entry (spec/60_exceptions.md R182), the halted block (R183) and reset (spec/70_reset_and_hazards.md R210), which is the only return from a fault (R184). -/

namespace Sys2Proof.Machine

/-- NF, the number of filter instances (R5). -/
def State.nf (s : State) : Nat := s.filters.length

/-- CAP, the number of slots (R5). -/
def State.cap (s : State) : Nat := s.slots.length

/-- Filter `f`. Every caller has checked `f < NF`; past NF there is no filter, and the value stands for none. -/
def State.filter (s : State) (f : Handle) : DebounceFilter :=
  s.filters.getD f.toNat DebounceFilter.reset

/-- Replace filter `f`. -/
def State.setFilter (s : State) (f : Handle) (x : DebounceFilter) : State :=
  { s with filters := s.filters.set f.toNat x }

/-- Replace slot `i`. -/
def State.setSlot (s : State) (i : Nat) (x : Slot) : State :=
  { s with slots := s.slots.set i x }

/-- Take slot `count` into use (R141). -/
def State.addSlot (s : State) (x : Slot) : State :=
  { s with slots := s.slots.set s.count x, count := s.count + 1 }

/-- `tick_counter <- (tick_counter + 1) mod 2^32` (R142). -/
def State.countTick (s : State) : State :=
  { s with tickCounter := s.tickCounter + 1 }

/-! ### Outputs (R37, R39) -/

/-- `res <- r`, with the empty trace of every command but SCH_TICK (R39). -/
def State.answer (s : State) (r : Bool) : State := { s with res := r, trace := [] }

/-- `Emit(h)`: append `h` to the dispatch trace (R8, R39). -/
def State.emit (s : State) (h : Handle) : State := { s with trace := s.trace ++ [h] }

/-! ### The raw input (R62) -/

/-- The bit that `RawRead(f)` draws: the next sample the environment lined up, else a free value (log 4). Any bit is a legal sample. -/
def State.nextSample (s : State) (f : Handle) : Bool :=
  s.rawDraws.headD (Config.rawLevel s.drawCount f)

/-- The environment after one draw. -/
def State.afterDraw (s : State) : State :=
  { s with rawDraws := s.rawDraws.tail, drawCount := s.drawCount + 1 }

/-! ### Faults (R180-R185) -/

/-- The code of a fault (R32, R180). -/
def FaultCause.code : FaultCause → BitVec 4
  | .illegalCmd => 0x1
  | .badIndex => 0x2
  | .unconstructed => 0x3

/-- `raise Fault(code)` on command word `w` (R182): the two fault registers and `res`; the trace of such a command is empty (R39). -/
def State.raiseFault (s : State) (c : FaultCause) (w : Word) : State :=
  { s with faultCode := c.code, faultCmd := w, res := false, trace := [] }

/-- Halted (R183): `fault_code` is not 0. -/
def State.halted (s : State) : Bool := s.faultCode != 0

/-- A command presented to a halted block (R183): no state written, `res = 0`, empty trace. -/
def State.ignoreCommand (s : State) : State := { s with res := false, trace := [] }

/-- The reset step (R210): every field of the block at its reset value, for the same NF and CAP; what the agents have lined up is outside the block and stays (log 12). The only way out of the halted state (R184, R211). -/
def State.applyReset (s : State) : State :=
  { State.resetWith s.nf s.cap with
    inputs := s.inputs, rawDraws := s.rawDraws, drawCount := s.drawCount }

end Sys2Proof.Machine
end

