-- ==== Sys2Proof/Machine/Accept.lean ====
section
/-! DEFINITION. What comes before a command's own meaning: taking the next input (spec/20_memory.md R52, R57), reset (spec/70_reset_and_hazards.md R210), the halted check and the decode, in the order of spec/60_exceptions.md R181. -/

namespace Sys2Proof.Machine

/-- What the block does with its next input. -/
inductive Accepted where
  /-- The step is over: nothing presented, reset, an ignored command, or an illegal word. -/
  | done (t : State)
  /-- A legal command of a running block: `i` runs from `t`. -/
  | run (i : Instr) (t : State)
deriving DecidableEq, Repr

/-- A command word presented to the block: the halted check, then the decode (R181, R183, R75, R76). -/
def State.acceptWord (s : State) (w : Word) : Accepted :=
  if s.halted then .done s.ignoreCommand
  else
    match decode w with
    | .error _ => .done (s.raiseFault .illegalCmd w)
    | .ok i => .run i s

/-- The state once its next input is taken. -/
def State.popInput (s : State) : State := { s with inputs := s.inputs.tail }

/-- Take the next input (R57). With nothing presented the block holds its state (R195). A transfer that is no whole word presents no command (R52). -/
def State.accept (s : State) : Accepted :=
  match s.inputs with
  | [] => .done s
  | .command _ w :: _ => s.popInput.acceptWord w
  | .transfer _ bytes :: _ =>
    match wordOfBytes Config.hostByteOrder bytes with
    | none => .done s.popInput
    | some w => s.popInput.acceptWord w
  | .reset :: _ => .done s.popInput.applyReset

/-- Present a command word as the very next input (log 1). -/
def State.present (s : State) (a : Agent) (w : Word) : State :=
  { s with inputs := .command a w :: s.inputs }

/-- The tick source's presentation of one base tick: word 0x12 (R81, R187). -/
def tickInput : Input := .command .tickSource 0x0000000000000012#64

end Sys2Proof.Machine
end

