-- ==== Sys2Proof/Machine/Flags.lean ====
section
/-! DEFINITION. The debounced level and the two edge latches, the block's only status flags besides the fault code (spec/10_state.md R36): how FilterAdvance computes them (spec/40_debounce_filter.md R101). -/

namespace Sys2Proof.Machine

/-- Eight copies of one level. -/
def unanimousWindow (level : Bool) : Byte := if level then 0xFF else 0x00

/-- `window <- {window[6:0], s}`: newest into bit 0, bit 7 dropped (R9, R101). -/
def shiftIn (w : Byte) (s : Bool) : Byte := w.extractLsb' 0 7 ++ BitVec.ofBool s

/-- The unanimity test (R101, R108): all eight samples 1 give 1, all eight 0 give 0, any other window keeps the old level. Not a vote. -/
def settledLevel (w : Byte) (old : Bool) : Bool :=
  if w = 0xFF then true else if w = 0x00 then false else old

/-- The rising-edge latch after an evaluation that took the level from `prev` to `now`: set on 0 to 1, else as before (R101, R111). -/
def riseAfter (prev now old : Bool) : Bool := if now && !prev then true else old

/-- The falling-edge latch after an evaluation that took the level from `prev` to `now`: set on 1 to 0, else as before (R101, R111). -/
def fallAfter (prev now old : Bool) : Bool := if !now && prev then true else old

end Sys2Proof.Machine
end

