-- ==== Sys2Proof/Machine/Operands.lean ====
section
/-! DEFINITION. The operand forms: a filter index with its checks (spec/40_debounce_filter.md R100) and a target handle (spec/30_encoding.md R74, spec/41_task_scheduler.md R141). Operands are unsigned and taken from the word unscaled (R72, in Decode). -/

namespace Sys2Proof.Machine

/-- A handle names an internal filter when `h < NF`, and an external unit otherwise (R74). -/
def State.isInternal (s : State) (h : Handle) : Bool := h.toNat < s.nf

/-- CheckFilter (R100): the fault, if any, that a filter command on `f` raises; the index is checked before the construction. -/
def State.checkFilter (s : State) (f : Handle) (needConstructed : Bool) : Option FaultCause :=
  if s.nf ≤ f.toNat then some .badIndex
  else if needConstructed && !(s.filter f).constructed then some .unconstructed
  else none

/-- The check of SCH_REG (R141): an internal target must be constructed; an external handle is never checked. -/
def State.checkTarget (s : State) (h : Handle) : Option FaultCause :=
  if s.isInternal h && !(s.filter h).constructed then some .unconstructed
  else none

end Sys2Proof.Machine
end

