-- ==== Sys2Proof/Machine/Filter.lean ====
section
/-! DEFINITION. The five debounce filter commands (spec/40_debounce_filter.md R100-R106) and FilterAdvance, which SCH_TICK's dispatch shares. Each meaning starts after the halted check and the decode (R181, Machine/Accept.lean). -/

namespace Sys2Proof.Machine

/-- FilterAdvance on one filter's fields, given the sample drawn (R101). -/
def DebounceFilter.advance (x : DebounceFilter) (sample : Bool) : DebounceFilter :=
  let w := shiftIn x.window sample
  let now := settledLevel w x.state
  { x with
    window := w
    state := now
    prevState := now
    rise := riseAfter x.prevState now x.rise
    fall := fallAfter x.prevState now x.fall }

/-- A filter as FLT_INIT leaves it: the window holds 8 inactive samples, the level is the inactive one, no edge is latched (R102, D9, D10). -/
def DebounceFilter.init (pol : Bool) : DebounceFilter :=
  { constructed := true, activeLevel := pol, window := unanimousWindow (!pol), state := !pol,
    prevState := !pol, rise := false, fall := false }

/-- FilterAdvance(f): one raw draw, then one advance of filter `f` (R101). -/
def State.filterAdvance (s : State) (f : Handle) : State :=
  s.afterDraw.setFilter f ((s.filter f).advance (s.nextSample f))

/-- A filter command's shape: CheckFilter first (R100), its fault entered with the command's own word (R182); past it, the effect. -/
def State.withFilter (s : State) (f : Handle) (needConstructed : Bool) (i : Instr)
    (effect : DebounceFilter → State) : Host.Outcome State Fault Refusal :=
  match s.checkFilter f needConstructed with
  | some c => .next (s.raiseFault c (encode i))
  | none => .next (effect (s.filter f))

/-- FLT_INIT f, pol (R102). -/
def execFltInit (f : Handle) (pol : Bool) (s : State) : Host.Outcome State Fault Refusal :=
  s.withFilter f false (.fltInit f pol) fun _ =>
    (s.setFilter f (DebounceFilter.init pol)).answer false

/-- FLT_ADV f (R103). -/
def execFltAdv (f : Handle) (s : State) : Host.Outcome State Fault Refusal :=
  s.withFilter f true (.fltAdv f) fun _ => (s.filterAdvance f).answer false

/-- FLT_ACT f (R104): pressed when the debounced level is the active one. -/
def execFltAct (f : Handle) (s : State) : Host.Outcome State Fault Refusal :=
  s.withFilter f true (.fltAct f) fun x => s.answer (x.state == x.activeLevel)

/-- FLT_CRISE f (R105): one atomic read and clear. -/
def execFltCrise (f : Handle) (s : State) : Host.Outcome State Fault Refusal :=
  s.withFilter f true (.fltCrise f) fun x =>
    (s.setFilter f { x with rise := false }).answer x.rise

/-- FLT_CFALL f (R106): one atomic read and clear. -/
def execFltCfall (f : Handle) (s : State) : Host.Outcome State Fault Refusal :=
  s.withFilter f true (.fltCfall f) fun x =>
    (s.setFilter f { x with fall := false }).answer x.fall

end Sys2Proof.Machine
end

