-- ==== Sys2Proof/Machine/Scheduler.lean ====
section
/-! DEFINITION. The three scheduler commands and Dispatch (spec/41_task_scheduler.md R140-R143). -/

namespace Sys2Proof.Machine

/-- Dispatch(h) (R143): the trace entry, which for an external unit is its advance strobe and its only effect, and for an internal filter a FilterAdvance, which checks nothing (R27). -/
def State.dispatch (s : State) (h : Handle) : State :=
  if s.isInternal h then (s.emit h).filterAdvance h else s.emit h

/-- Due exactly when `(tick_counter - next_due) mod 2^32 == 0`: equality, never "past" (R142, R147). -/
def Slot.dueAt (x : Slot) (tick : Tick) : Bool := tick - x.nextDue == 0

/-- The slot after it fired: `next_due += period`, modulo 2^32 (R142). -/
def Slot.fired (x : Slot) : Slot := { x with nextDue := x.nextDue + x.period }

/-- What the scan does at slot `i` (R142). -/
def State.scanSlot (s : State) (i : Nat) : State :=
  match s.slots[i]? with
  | none => s
  | some x => if x.dueAt s.tickCounter then (s.dispatch x.target).setSlot i x.fired else s

/-- The scan of slots `0 .. n-1` in ascending order (R142, R148). -/
def State.scan (s : State) : Nat → State
  | 0 => s
  | n + 1 => (s.scan n).scanSlot n

/-- SCH_INST (R140): handle 0, the one scheduler, which exists from reset (R212). -/
def execSchInst (s : State) : Host.Outcome State Fault Refusal := .next (s.answer false)

/-- SCH_REG h, P (R141): the construction check, then the full-registry test, which is no fault (R186); `next_due` is P whatever the counter holds. -/
def execSchReg (h : Handle) (P : Tick) (s : State) : Host.Outcome State Fault Refusal :=
  match s.checkTarget h with
  | some c => .next (s.raiseFault c (encode (.schReg h P)))
  | none =>
    if s.count = s.cap then .next (s.answer false)
    else .next ((s.addSlot { target := h, period := P, nextDue := P }).answer true)

/-- SCH_TICK (R142): from an empty trace, the scan, then the counter; `res` is 0. -/
def execSchTick (s : State) : Host.Outcome State Fault Refusal :=
  .next ((s.answer false).scan s.count).countTick

end Sys2Proof.Machine
end

