-- ==== Sys2Proof/Machine/Dispatch.lean ====
section
/-! DEFINITION. One arm per command of the opcode table. -/

namespace Sys2Proof.Machine

def exec (i : Instr) (s : State) : Host.Outcome State Fault Refusal :=
  match i with
  | .fltInit f pol => Sys2Proof.Machine.execFltInit f pol s
  | .fltAdv f => Sys2Proof.Machine.execFltAdv f s
  | .fltAct f => Sys2Proof.Machine.execFltAct f s
  | .fltCrise f => Sys2Proof.Machine.execFltCrise f s
  | .fltCfall f => Sys2Proof.Machine.execFltCfall f s
  | .schInst => Sys2Proof.Machine.execSchInst s
  | .schReg h P => Sys2Proof.Machine.execSchReg h P s
  | .schTick => Sys2Proof.Machine.execSchTick s

end Sys2Proof.Machine
end

