-- ==== Sys2Proof/Machine/Step.lean ====
section
/-! DEFINITION. One step: the next input in the total order of spec/20_memory.md R57, as one atomic step (R53). -/

namespace Sys2Proof.Machine

/-- One step of the block. -/
def step (s : State) : Host.Outcome State Fault Refusal :=
  match s.accept with
  | .done t => .next t
  | .run i t => exec i t

/-- `s` with the command whose low `nbits` bits are `w`'s, its other bits 0, as the next input the block takes: the host presents it (log 1). -/
def State.withFetchWord (s : State) (nbits w : Nat) : State :=
  s.present .host (BitVec.ofNat 64 (w % 2 ^ nbits))

end Sys2Proof.Machine
end

