-- ==== Sys2Proof/WellFormed.lean ====
section
/-! DEFINITION. Which commands can be written at all: the operand ranges of the assembler's table, spec/30_encoding.md R79, over assembly lines whose operands are still plain numbers, and for the core commands (`Instr`), whose operand types are exact, the same check. -/

namespace Sys2Proof

/-- One line of assembly: the eight commands of R79 and the four pseudo-instructions of R80, operands as the numbers written. -/
inductive AsmLine where
  | fltInit (f pol : Nat)
  | fltAdv (f : Nat)
  | fltAct (f : Nat)
  | fltCrise (f : Nat)
  | fltCfall (f : Nat)
  | schInst
  | schReg (h P : Nat)
  | schTick
  /-- `flt.init.ah f` (R80). -/
  | fltInitAh (f : Nat)
  /-- `flt.init.al f` (R80). -/
  | fltInitAl (f : Nat)
  /-- `sch.tickn n` (R80). -/
  | schTickn (n : Nat)
  /-- `flt.advn f, n` (R80). -/
  | fltAdvn (f n : Nat)
deriving DecidableEq, Repr

/-- The operand ranges the assembler accepts (R79): `f`, `h` in 0..255, `pol` in 0..1, `P` in 0..0xFFFFFFFF. A pseudo-instruction's count is any number (R80). `flt.advn f, 0` with f above 255 is refused like any other `flt.advn` of that f, although its expansion is no line at all and R80 gives a pseudo-instruction's f no range: DESIGN CHOICE (log 16). An index at or above NF is accepted: such a word is legal, and the block faults. -/
def AsmLine.wellFormed : AsmLine → Bool
  | .fltInit f pol => f < 256 && pol < 2
  | .fltAdv f => f < 256
  | .fltAct f => f < 256
  | .fltCrise f => f < 256
  | .fltCfall f => f < 256
  | .schInst => true
  | .schReg h P => h < 256 && P < 2 ^ 32
  | .schTick => true
  | .fltInitAh f => f < 256
  | .fltInitAl f => f < 256
  | .schTickn _ => true
  | .fltAdvn f _ => f < 256

/-- The assembly line that writes a core command (R79). -/
def Instr.asmLine : Instr → AsmLine
  | .fltInit f pol => .fltInit f.toNat pol.toNat
  | .fltAdv f => .fltAdv f.toNat
  | .fltAct f => .fltAct f.toNat
  | .fltCrise f => .fltCrise f.toNat
  | .fltCfall f => .fltCfall f.toNat
  | .schInst => .schInst
  | .schReg h P => .schReg h.toNat P.toNat
  | .schTick => .schTick

/-- A core command is well-formed when every operand is in the assembler's range. The operand types are exact, so this holds of every `Instr` (`Sys2Proof.Laws.Encoding`); what can be ill-formed is an `AsmLine`. -/
abbrev Instr.WellFormed (i : Instr) : Prop := i.asmLine.wellFormed = true

end Sys2Proof
end

