-- ==== Sys2Proof/Machine/Assembler.lean ====
section
/-! DEFINITION. The assembler of spec/30_encoding.md R79 and R80: one command per line, `;` starts a comment, operands decimal or 0x hexadecimal, lower-case mnemonics, four pseudo-instructions; and how an assembled program reaches the block, as the host's next commands (spec/10_state.md R35). Lexical details the table leaves open: log 16. -/

namespace Sys2Proof.Machine

/-- Why the assembler refuses a line (R79). -/
inductive AsmError where
  /-- The first word is no mnemonic of R79 or R80. -/
  | unknownMnemonic
  /-- Too few or too many operands, or one that is not a number. -/
  | badOperands
  /-- An operand outside its range: it cannot be encoded. -/
  | outOfRange
deriving DecidableEq, Repr

/-! ### Reading a line -/

/-- A blank between words. DESIGN CHOICE (log 16): space and tab. -/
def isBlank (c : Char) : Bool := c == ' ' || c == '\t'

/-- The line up to its comment (R79). -/
def stripComment (cs : List Char) : List Char := cs.takeWhile (· != ';')

/-- Without blanks at either end. -/
def trimBlanks (cs : List Char) : List Char :=
  ((cs.dropWhile isBlank).reverse.dropWhile isBlank).reverse

/-- The pieces between commas. -/
def splitCommas : List Char → List (List Char)
  | [] => [[]]
  | c :: cs =>
    if c == ',' then [] :: splitCommas cs
    else
      match splitCommas cs with
      | [] => [[c]]
      | p :: ps => (c :: p) :: ps

/-- The value of a digit in a base up to 16; hexadecimal digits in either case (log 16). -/
def digitValue (base : Nat) (c : Char) : Option Nat :=
  let n := c.toNat
  let v :=
    if 48 ≤ n && n ≤ 57 then n - 48
    else if 97 ≤ n && n ≤ 102 then n - 87
    else if 65 ≤ n && n ≤ 70 then n - 55
    else base
  if v < base then some v else none

/-- The value of a list of digits after the value `acc` so far. -/
def digitsValue (base : Nat) : Nat → List Char → Option Nat
  | acc, [] => some acc
  | acc, c :: cs =>
    match digitValue base c with
    | none => none
    | some d => digitsValue base (acc * base + d) cs

/-- A decimal or `0x` hexadecimal number (R79). -/
def parseNumber : List Char → Option Nat
  | [] => none
  | '0' :: 'x' :: [] => none
  | '0' :: 'x' :: c :: cs => digitsValue 16 0 (c :: cs)
  | c :: cs => digitsValue 10 0 (c :: cs)

/-- The operands of a line: numbers between commas, or none at all. -/
def parseOperands (cs : List Char) : Option (List Nat) :=
  if trimBlanks cs = [] then some []
  else (splitCommas cs).mapM fun p => parseNumber (trimBlanks p)

/-- The operand list that a mnemonic with a given number of operands takes. -/
def withOperands (ops : Option (List Nat)) (line : List Nat → Option AsmLine) :
    Except AsmError AsmLine :=
  match ops.bind line with
  | some l => .ok l
  | none => .error .badOperands

/-- One operand. -/
def oneOperand (line : Nat → AsmLine) : List Nat → Option AsmLine
  | [a] => some (line a)
  | _ => none

/-- Two operands. -/
def twoOperands (line : Nat → Nat → AsmLine) : List Nat → Option AsmLine
  | [a, b] => some (line a b)
  | _ => none

/-- No operand. -/
def noOperand (line : AsmLine) : List Nat → Option AsmLine
  | [] => some line
  | _ => none

/-- The mnemonics of R79 and R80 with the shape of their operands. -/
def mnemonicTable : List (String × (List Nat → Option AsmLine)) :=
  [ ("flt.init", twoOperands .fltInit),
    ("flt.adv", oneOperand .fltAdv),
    ("flt.act", oneOperand .fltAct),
    ("flt.crise", oneOperand .fltCrise),
    ("flt.cfall", oneOperand .fltCfall),
    ("sch.inst", noOperand .schInst),
    ("sch.reg", twoOperands .schReg),
    ("sch.tick", noOperand .schTick),
    ("flt.init.ah", oneOperand .fltInitAh),
    ("flt.init.al", oneOperand .fltInitAl),
    ("sch.tickn", oneOperand .schTickn),
    ("flt.advn", twoOperands .fltAdvn) ]

/-- One line of text: nothing but blanks and a comment gives no command. -/
def parseLine (text : String) : Except AsmError (Option AsmLine) :=
  let cs := trimBlanks (stripComment text.toList)
  if cs = [] then .ok none
  else
    match mnemonicTable.find? (fun r => r.1.toList == cs.takeWhile (fun c => !isBlank c)) with
    | none => .error .unknownMnemonic
    | some r =>
      (withOperands (parseOperands (cs.dropWhile (fun c => !isBlank c))) r.2).map some

/-! ### Assembling -/

/-- The commands a line stands for; a pseudo-instruction stands for its expansion (R80). -/
def asmExpand : AsmLine → List Instr
  | .fltInit f pol => [.fltInit (BitVec.ofNat 8 f) (pol == 1)]
  | .fltAdv f => [.fltAdv (BitVec.ofNat 8 f)]
  | .fltAct f => [.fltAct (BitVec.ofNat 8 f)]
  | .fltCrise f => [.fltCrise (BitVec.ofNat 8 f)]
  | .fltCfall f => [.fltCfall (BitVec.ofNat 8 f)]
  | .schInst => [.schInst]
  | .schReg h P => [.schReg (BitVec.ofNat 8 h) (BitVec.ofNat 32 P)]
  | .schTick => [.schTick]
  | .fltInitAh f => [.fltInit (BitVec.ofNat 8 f) true]
  | .fltInitAl f => [.fltInit (BitVec.ofNat 8 f) false]
  | .schTickn n => List.replicate n .schTick
  | .fltAdvn f n => List.replicate n (.fltAdv (BitVec.ofNat 8 f))

/-- The words of a line; a line with an operand out of range is refused (R79). -/
def assemble (l : AsmLine) : Except AsmError (List Word) :=
  if l.wellFormed then .ok ((asmExpand l).map encode) else .error .outOfRange

/-- The words of a line of text. -/
def assembleText (text : String) : Except AsmError (List Word) :=
  match parseLine text with
  | .error e => .error e
  | .ok none => .ok []
  | .ok (some l) => assemble l

/-- The words of a program: its lines in order, refused with the first line that is. -/
def assembleProgram : List String → Except AsmError (List Word)
  | [] => .ok []
  | line :: lines =>
    match assembleText line with
    | .error e => .error e
    | .ok ws =>
      match assembleProgram lines with
      | .error e => .error e
      | .ok rest => .ok (ws ++ rest)

/-- A program is the sequence of commands its agent presents (R35): the words lined up by the host behind what is lined up already. -/
def State.loadProgram (s : State) (ws : List Word) : State :=
  { s with inputs := s.inputs ++ ws.map (.command .host) }

end Sys2Proof.Machine
end

