-- ==== Sys2Proof/Safety.lean ====
section
/-! DEFINITION. What claims about runs speak of: the running block, the invariants of spec/10_state.md R29, R32, R40, R41 and 41_task_scheduler.md R27, and repeated ticks and advances. -/

namespace Sys2Proof.Machine

/-- The block executes commands: it is not halted (R183). A run that ends faulted is never a successful one (spec/93_implementation_defined.md). -/
abbrev State.Running (s : State) : Prop := s.faultCode = 0

/-- NF and CAP are legal parameters (R5). -/
abbrev State.LegalParams (s : State) : Prop := 1 ≤ s.nf ∧ s.nf ≤ 256 ∧ 1 ≤ s.cap

/-- `count <= CAP` (R40). -/
abbrev State.CountFits (s : State) : Prop := s.count ≤ s.cap

/-- `fault_code` is legal: 0x0 to 0x3 (R32). -/
abbrev State.LegalFaultCode (s : State) : Prop := s.faultCode.toNat ≤ 3

/-- Every internal target in use is constructed (R27, R141, R142). -/
abbrev State.TargetsConstructed (s : State) : Prop :=
  ∀ x ∈ s.slots.take s.count, x.target.toNat < s.nf → (s.filter x.target).constructed = true

/-- A constructed filter between two commands: `prev_state == state` (R41), and a unanimous window is the level (R101, R107). -/
abbrev DebounceFilter.Settled (x : DebounceFilter) : Prop :=
  x.prevState = x.state ∧ (x.window = 0xFF → x.state = true) ∧ (x.window = 0x00 → x.state = false)

/-- Every constructed filter is settled (R41). -/
abbrev State.FiltersSettled (s : State) : Prop :=
  ∀ x ∈ s.filters, x.constructed = true → x.Settled

/-- The invariant that every step keeps. -/
abbrev State.Inv (s : State) : Prop :=
  s.LegalParams ∧ s.CountFits ∧ s.LegalFaultCode ∧ s.TargetsConstructed ∧ s.FiltersSettled

/-- A filter advanced once per sample, oldest sample first (R101). -/
def DebounceFilter.advances (x : DebounceFilter) (samples : List Bool) : DebounceFilter :=
  samples.foldl DebounceFilter.advance x

/-- Does one advance of `x` with sample `b` take the level from 0 to 1, and so set the rising latch? (R101). -/
def DebounceFilter.setsRise (x : DebounceFilter) (b : Bool) : Bool :=
  (x.advance b).state && !x.prevState

/-- Does one advance of `x` with sample `b` take the level from 1 to 0, and so set the falling latch? (R101). -/
def DebounceFilter.setsFall (x : DebounceFilter) (b : Bool) : Bool :=
  !(x.advance b).state && x.prevState

/-- How many of the advances set the rising latch (R110). -/
def DebounceFilter.riseSettings (x : DebounceFilter) : List Bool → Nat
  | [] => 0
  | b :: l => (x.setsRise b).toNat + (x.advance b).riseSettings l

/-- How many of the advances set the falling latch (R110). -/
def DebounceFilter.fallSettings (x : DebounceFilter) : List Bool → Nat
  | [] => 0
  | b :: l => (x.setsFall b).toNat + (x.advance b).fallSettings l

/-! ### What a command leaves alone -/

/-- The scheduler is unchanged. -/
abbrev SameScheduler (s t : State) : Prop :=
  t.tickCounter = s.tickCounter ∧ t.count = s.count ∧ t.slots = s.slots

/-- The fault registers are unchanged. -/
abbrev SameFaultRegs (s t : State) : Prop := t.faultCode = s.faultCode ∧ t.faultCmd = s.faultCmd

/-- What the agents have lined up is unchanged. -/
abbrev SameAgents (s t : State) : Prop :=
  t.inputs = s.inputs ∧ t.rawDraws = s.rawDraws ∧ t.drawCount = s.drawCount

/-- Every filter but `f` is unchanged, and there are as many. -/
abbrev SameFiltersBut (f : Handle) (s t : State) : Prop :=
  t.nf = s.nf ∧ ∀ g, g ≠ f → t.filter g = s.filter g

/-- The state after `raise Fault(code)` on word `w` (R182). -/
abbrev State.faulted (s : State) (code : BitVec 4) (w : Word) : State :=
  { s with faultCode := code, faultCmd := w, res := false, trace := [] }

/-- The code of the first check of `i` that fails, 0 if none does: index range, then construction (R180, R181). -/
def State.failedCheck (s : State) : Instr → BitVec 4
  | .fltInit f _ => if s.nf ≤ f.toNat then 0x2 else 0x0
  | .fltAdv f | .fltAct f | .fltCrise f | .fltCfall f =>
    if s.nf ≤ f.toNat then 0x2 else if (s.filter f).constructed then 0x0 else 0x3
  | .schReg h _ => if h.toNat < s.nf ∧ (s.filter h).constructed = false then 0x3 else 0x0
  | .schInst | .schTick => 0x0

/-! ### Runs -/

/-- The targets due at this tick, in slot order (R142, R148). -/
def State.dueTargets (s : State) : List Handle :=
  ((s.slots.take s.count).filter fun x => x.nextDue = s.tickCounter).map Slot.target

/-- Slot `i` is in use and fires if the next command is SCH_TICK (R142). -/
def State.fires (s : State) (i : Nat) : Prop :=
  i < s.count ∧ ∃ x, s.slots[i]? = some x ∧ x.nextDue = s.tickCounter

/-- One base tick: the state SCH_TICK leaves (R142). -/
def State.tick (s : State) : State :=
  match exec .schTick s with
  | .next t => t
  | .fault _ | .refused _ => s

/-- `n` base ticks in a row, with nothing between them. -/
def State.ticks (s : State) : Nat → State
  | 0 => s
  | n + 1 => (s.ticks n).tick

/-- Commands executed in order, stopping at the first that answers no next state. -/
def execAll : List Instr → State → Host.Outcome State Fault Refusal
  | [], s => .next s
  | i :: l, s =>
    match exec i s with
    | .next t => execAll l t
    | .fault r => .fault r
    | .refused r => .refused r

/-! ### What outcomes can depend on -/

/-- Two filters look the same: both unconstructed, or both constructed and equal (R43). -/
abbrev DebounceFilter.LooksLike (x y : DebounceFilter) : Prop :=
  x.constructed = y.constructed ∧ (x.constructed = true → x = y)

/-- Two states differ at most in what no command's outcome depends on: the fields of unconstructed filters (R43), slots not in use (R44), and `fault_cmd` while there is no fault (R45), which the host can nevertheless read on its status output (R32). Their outputs and all that the agents lined up are the same. -/
structure State.LooksLike (s t : State) : Prop where
  nf : s.nf = t.nf
  cap : s.cap = t.cap
  filters : ∀ f, (s.filter f).LooksLike (t.filter f)
  tickCounter : s.tickCounter = t.tickCounter
  count : s.count = t.count
  slots : s.slots.take s.count = t.slots.take t.count
  faultCode : s.faultCode = t.faultCode
  faultCmd : s.faultCode ≠ 0 → s.faultCmd = t.faultCmd
  res : s.res = t.res
  trace : s.trace = t.trace
  inputs : s.inputs = t.inputs
  rawDraws : s.rawDraws = t.rawDraws
  drawCount : s.drawCount = t.drawCount

end Sys2Proof.Machine
end

