-- ==== Sys2Proof/Certificates/Slice0/Obligations.lean ====
section
/-! DEFINITION. The statements for the provers. Each docstring names the rule of spec/ it formalises. `next` is a next state of the model; the block never stops (spec/60_exceptions.md R182). `inputs`, `rawDraws` and `drawCount` are the model's own form of the total order of R57 and of the draws of R62 (logs 1 and 4); `exec` is a command after the halted check and the decode. -/

section
open Sys2Proof Sys2Proof.Machine

/-! ### Words and decoding (spec/30_encoding.md) -/

/-- R71, R73, R75: decoding the word of any command, with its operands at any value, gives that command. -/
def Obligations.DecodeOfEncodeIsTheCommand : Prop :=
  ∀ i : Instr, decode (encode i) = .ok i

/-- R71, R73, R75: every legal word is the word of the command it decodes to, so no bit of it is dropped. -/
def Obligations.EncodeOfDecodeIsTheWord : Prop :=
  ∀ (w : Word) (i : Instr), decode w = .ok i → encode i = w

/-- R75: a word decodes to the operation of a row that matches it, at most one row matches any word, and a word that no row matches raises ILLEGAL_CMD, before any other check. -/
def Obligations.AtMostOneRowMatches : Prop :=
  ∀ w : Word,
    (∀ r₁ ∈ opcodeTable, ∀ r₂ ∈ opcodeTable,
      w &&& r₁.mask = r₁.pattern → w &&& r₂.mask = r₂.pattern → r₁.mnemonic = r₂.mnemonic) ∧
    (∀ r ∈ opcodeTable, w &&& r.mask = r.pattern → decode w = .ok (r.build w)) ∧
    ((∀ r ∈ opcodeTable, w &&& r.mask ≠ r.pattern) → (∃ e, decode w = .error e) ∧
      ∀ (s : State) (a : Agent) (rest : List Input), s.inputs = .command a w :: rest →
        s.faultCode = 0 → step s = .next { s.faulted 0x1 w with inputs := rest })

/-- R76: the list of illegal words, field by field, and what a running block does with one. -/
def Obligations.IllegalWordsFaultWithNoOtherEffect : Prop :=
  ∀ w : Word,
    ((∃ e, decode w = .error e) ↔
      (w.extractLsb' 0 8 ∉ [0x01#8, 0x02#8, 0x03#8, 0x04#8, 0x05#8, 0x10#8, 0x11#8, 0x12#8] ∨
        w.extractLsb' 16 16 ≠ 0#16 ∨
        (w.extractLsb' 0 8 ∈ [0x02#8, 0x03#8, 0x04#8, 0x05#8, 0x10#8, 0x12#8] ∧
          w.extractLsb' 32 32 ≠ 0#32) ∨
        (w.extractLsb' 0 8 = 0x01#8 ∧ w.extractLsb' 33 31 ≠ 0#31) ∨
        (w.extractLsb' 0 8 ∈ [0x10#8, 0x12#8] ∧ w.extractLsb' 8 8 ≠ 0#8))) ∧
    ∀ (s : State) (a : Agent) (rest : List Input) (e : DecodeError),
      s.inputs = .command a w :: rest → s.faultCode = 0 → decode w = .error e →
      step s = .next { s.faulted 0x1 w with inputs := rest }

/-- Words written out from R73 and spec/95_test_vectors.md 2.1, one for each command, and four illegal ones. -/
def Obligations.TableWordsDecode : Prop :=
  decode 0x0000000100000101#64 = .ok (.fltInit 1 true) ∧
  decode 0x0000000000000702#64 = .ok (.fltAdv 7) ∧
  decode 0x0000000000000503#64 = .ok (.fltAct 5) ∧
  decode 0x000000000000FF04#64 = .ok (.fltCrise 255) ∧
  decode 0x0000000000000105#64 = .ok (.fltCfall 1) ∧
  decode 0x0000000000000010#64 = .ok .schInst ∧
  decode 0xFFFFFFFF0000FF11#64 = .ok (.schReg 0xFF 0xFFFFFFFF) ∧
  decode 0x0000000000000012#64 = .ok .schTick ∧
  (decode 0x0000000000000000#64).toOption = none ∧
  (decode 0x0000000200000001#64).toOption = none ∧
  (decode 0x0000000000010002#64).toOption = none ∧
  (decode 0x0000000000000112#64).toOption = none

/-- R51, R52: a host bus transfer of a word's 8 bytes, in whichever order HOST_BYTE_ORDER is, is that command word; a transfer of another length presents no command, so the block's state stays; that the transfer is gone and the outputs are kept is the model's choice (logs 1 and 8). -/
def Obligations.BusTransferIsAWholeWordOrNothing : Prop :=
  ∀ (s : State) (a : Agent) (rest : List Input),
    (∀ w : Word,
      step { s with inputs := .transfer a (bytesOfWord Config.hostByteOrder w) :: rest } =
        step { s with inputs := .command a w :: rest }) ∧
    (∀ bytes : List Byte, bytes.length ≠ 8 →
      step { s with inputs := .transfer a bytes :: rest } = .next { s with inputs := rest })

/-! ### A step (spec/20_memory.md, spec/60_exceptions.md, spec/70_reset_and_hazards.md) -/

/-- R53, R75, R181: a running block that is presented a legal word executes the decoded command, with that input taken and nothing else changed before it. -/
def Obligations.StepRunsTheDecodedCommand : Prop :=
  ∀ (s : State) (a : Agent) (w : Word) (rest : List Input) (i : Instr),
    s.inputs = .command a w :: rest → s.faultCode = 0 → decode w = .ok i →
    step s = exec i { s with inputs := rest }

/-- R183: a halted block ignores every command word from every agent. -/
def Obligations.HaltedBlockIgnoresCommands : Prop :=
  ∀ (s : State) (a : Agent) (w : Word) (rest : List Input),
    s.inputs = .command a w :: rest → s.faultCode ≠ 0 →
    step s = .next { s with inputs := rest, res := false, trace := [] }

/-- R210 with R43-R45: the reset step. The values the spec leaves unspecified are not mentioned; that what the agents and the environment line up is kept is the model's choice (log 12). -/
def Obligations.ResetStepSetsResetValues : Prop :=
  ∀ (s : State) (rest : List Input), s.inputs = .reset :: rest →
    ∃ t, step s = .next t ∧ t.nf = s.nf ∧ t.cap = s.cap ∧
      (∀ f, (t.filter f).constructed = false) ∧ t.tickCounter = 0 ∧ t.count = 0 ∧
      t.faultCode = 0 ∧
      t.inputs = rest ∧ t.rawDraws = s.rawDraws ∧ t.drawCount = s.drawCount

/-- R43-R45: the specified fields of the state after reset, for every NF and CAP. -/
def Obligations.ResetStateHasSpecifiedValues : Prop :=
  ∀ nf cap : Nat,
    (State.resetWith nf cap).nf = nf ∧ (State.resetWith nf cap).cap = cap ∧
    (∀ f, ((State.resetWith nf cap).filter f).constructed = false) ∧
    (State.resetWith nf cap).tickCounter = 0 ∧ (State.resetWith nf cap).count = 0 ∧
    (State.resetWith nf cap).faultCode = 0

/-- R211: reset is the only way out of the halted state, and the only way to set `count` back, or to set `tick_counter` to 0 other than the wrap. -/
def Obligations.ResetIsTheOnlyWayBack : Prop :=
  (∀ (s : State) (rest : List Input), s.inputs = .reset :: rest →
    ∃ t, step s = .next t ∧ t.faultCode = 0 ∧ t.count = 0 ∧ t.tickCounter = 0) ∧
  ∀ s t : State, step s = .next t → s.inputs.head? ≠ some .reset →
    (s.faultCode ≠ 0 → t.faultCode = s.faultCode ∧ t.faultCmd = s.faultCmd) ∧
    s.count ≤ t.count ∧
    (t.tickCounter = 0 → s.tickCounter = 0 ∨ s.tickCounter = 0xFFFFFFFF#32)

/-- R181: a command reports the first check that fails, in the order halted, decode, index, construction. -/
def Obligations.FirstFailingCheckIsReported : Prop :=
  ∀ (s : State) (a : Agent) (w : Word) (rest : List Input), s.inputs = .command a w :: rest →
    ∃ t, step s = .next t ∧
      (s.faultCode ≠ 0 → t.faultCode = s.faultCode ∧ t.faultCmd = s.faultCmd) ∧
      (s.faultCode = 0 → ∀ e, decode w = .error e → t.faultCode = 0x1) ∧
      (s.faultCode = 0 → ∀ i, decode w = .ok i → t.faultCode = s.failedCheck i) ∧
      (s.faultCode = 0 → ∀ h P, decode w = .ok (.schReg h P) → s.failedCheck (.schReg h P) = 0 →
        s.count = s.cap → t.res = false ∧ t.faultCode = 0)

/-- R182: a command that faults leaves the block as it was but for the two fault registers, with the word that faulted in `fault_cmd`. -/
def Obligations.FaultEntryIsPrecise : Prop :=
  ∀ (s t : State) (a : Agent) (w : Word) (rest : List Input),
    s.inputs = .command a w :: rest → s.faultCode = 0 → step s = .next t → t.faultCode ≠ 0 →
    (t.faultCode = 0x1 ∨ t.faultCode = 0x2 ∨ t.faultCode = 0x3) ∧
    t = { s with faultCode := t.faultCode, faultCmd := w, res := false, trace := [], inputs := rest }

/-- R57, R221: a step takes the first input in the order, and no later input has a part in what it does. -/
def Obligations.StepDependsOnNoLaterInput : Prop :=
  ∀ (s : State) (x : Input), ∃ t : State, ∀ later : List Input,
    step { s with inputs := x :: later } = .next { t with inputs := later }

/-- R81, R190: a word is executed the same whichever agent presents it. -/
def Obligations.AgentsAreAlike : Prop :=
  ∀ (s : State) (a b : Agent) (w : Word) (rest : List Input),
    step { s with inputs := .command a w :: rest } = step { s with inputs := .command b w :: rest }

/-- R62, R102-R106, R140-R143, R182: every step from every state answers a next state: nothing in this block waits or stops. With nothing presented the step keeps the state: the model's choice (log 1). -/
def Obligations.EveryStepAnswersNext : Prop :=
  (∀ s : State, ∃ t, step s = .next t) ∧ ∀ (i : Instr) (s : State), ∃ t, exec i s = .next t

/-- R5: NF and CAP are fixed for the life of the block. -/
def Obligations.ParametersNeverChange : Prop :=
  ∀ s t : State, step s = .next t → t.nf = s.nf ∧ t.cap = s.cap

/-! ### Debounce filter commands (spec/40_debounce_filter.md) -/

/-- R102: FLT_INIT. -/
def Obligations.FltInitConstructsFilter : Prop :=
  (∀ (w : Word) (f : Handle) (pol : Bool), decode w = .ok (.fltInit f pol) ↔
    w &&& 0xFFFFFFFEFFFF00FF#64 = 0x0000000000000001#64 ∧ f = w.extractLsb' 8 8 ∧
      pol = w.getLsbD 32) ∧
  ∀ (f : Handle) (pol : Bool) (s : State),
    (s.nf ≤ f.toNat →
      exec (.fltInit f pol) s = .next (s.faulted 0x2 (encode (.fltInit f pol)))) ∧
    (f.toNat < s.nf → ∃ t, exec (.fltInit f pol) s = .next t ∧
      t.filter f =
        { constructed := true, activeLevel := pol, window := if pol then 0x00#8 else 0xFF#8,
          state := !pol, prevState := !pol, rise := false, fall := false } ∧
      t.res = false ∧ t.trace = [] ∧
      SameFiltersBut f s t ∧ SameScheduler s t ∧ SameFaultRegs s t ∧ SameAgents s t)

/-- R101 with R62: FilterAdvance of filter `f`, with the bit `b` the environment gives at this draw. Where that bit comes from, the next one lined up in the state, else a free value, is the model's choice (log 4). -/
def Obligations.FilterAdvanceShiftsAndEvaluates : Prop :=
  ∀ (f : Handle) (s : State) (b : Bool), f.toNat < s.nf →
    (∀ rest, s.rawDraws = b :: rest → s.nextSample f = b ∧ (s.filterAdvance f).rawDraws = rest) ∧
    (s.rawDraws = [] → s.nextSample f = Config.rawLevel s.drawCount f) ∧
    (s.nextSample f = b →
      (s.filterAdvance f).filter f = (s.filter f).advance b ∧
      ((s.filterAdvance f).filter f).window.getLsbD 0 = b ∧
      (∀ k < 7, ((s.filterAdvance f).filter f).window.getLsbD (k + 1) =
        (s.filter f).window.getLsbD k) ∧
      ((s.filterAdvance f).filter f).state =
        (if ((s.filterAdvance f).filter f).window = 0xFF#8 then true
         else if ((s.filterAdvance f).filter f).window = 0x00#8 then false
         else (s.filter f).state) ∧
      ((s.filterAdvance f).filter f).rise =
        (if ((s.filterAdvance f).filter f).state = true ∧ (s.filter f).prevState = false then true
         else (s.filter f).rise) ∧
      ((s.filterAdvance f).filter f).fall =
        (if ((s.filterAdvance f).filter f).state = false ∧ (s.filter f).prevState = true then true
         else (s.filter f).fall) ∧
      ((s.filterAdvance f).filter f).prevState = ((s.filterAdvance f).filter f).state ∧
      ((s.filterAdvance f).filter f).constructed = (s.filter f).constructed ∧
      ((s.filterAdvance f).filter f).activeLevel = (s.filter f).activeLevel)

/-- R103: FLT_ADV. -/
def Obligations.FltAdvAdvancesOnce : Prop :=
  (∀ (w : Word) (f : Handle), decode w = .ok (.fltAdv f) ↔
    w &&& 0xFFFFFFFFFFFF00FF#64 = 0x0000000000000002#64 ∧ f = w.extractLsb' 8 8) ∧
  ∀ (f : Handle) (s : State),
    (s.nf ≤ f.toNat → exec (.fltAdv f) s = .next (s.faulted 0x2 (encode (.fltAdv f)))) ∧
    (f.toNat < s.nf → (s.filter f).constructed = false →
      exec (.fltAdv f) s = .next (s.faulted 0x3 (encode (.fltAdv f)))) ∧
    (f.toNat < s.nf → (s.filter f).constructed = true → ∃ t, exec (.fltAdv f) s = .next t ∧
      t.filter f = (s.filterAdvance f).filter f ∧
      t.rawDraws = s.rawDraws.tail ∧ t.drawCount = s.drawCount + 1 ∧ t.inputs = s.inputs ∧
      t.res = false ∧ t.trace = [] ∧
      SameFiltersBut f s t ∧ SameScheduler s t ∧ SameFaultRegs s t)

/-- R104: FLT_ACT. -/
def Obligations.FltActReportsPressed : Prop :=
  (∀ (w : Word) (f : Handle), decode w = .ok (.fltAct f) ↔
    w &&& 0xFFFFFFFFFFFF00FF#64 = 0x0000000000000003#64 ∧ f = w.extractLsb' 8 8) ∧
  ∀ (f : Handle) (s : State),
    (s.nf ≤ f.toNat → exec (.fltAct f) s = .next (s.faulted 0x2 (encode (.fltAct f)))) ∧
    (f.toNat < s.nf → (s.filter f).constructed = false →
      exec (.fltAct f) s = .next (s.faulted 0x3 (encode (.fltAct f)))) ∧
    (f.toNat < s.nf → (s.filter f).constructed = true →
      exec (.fltAct f) s =
        .next { s with
          res := if (s.filter f).state = (s.filter f).activeLevel then true else false
          trace := [] })

/-- R105: FLT_CRISE. -/
def Obligations.FltCriseReadsAndClears : Prop :=
  (∀ (w : Word) (f : Handle), decode w = .ok (.fltCrise f) ↔
    w &&& 0xFFFFFFFFFFFF00FF#64 = 0x0000000000000004#64 ∧ f = w.extractLsb' 8 8) ∧
  ∀ (f : Handle) (s : State),
    (s.nf ≤ f.toNat → exec (.fltCrise f) s = .next (s.faulted 0x2 (encode (.fltCrise f)))) ∧
    (f.toNat < s.nf → (s.filter f).constructed = false →
      exec (.fltCrise f) s = .next (s.faulted 0x3 (encode (.fltCrise f)))) ∧
    (f.toNat < s.nf → (s.filter f).constructed = true → ∃ t, exec (.fltCrise f) s = .next t ∧
      t.res = (s.filter f).rise ∧ t.filter f = { s.filter f with rise := false } ∧
      t.trace = [] ∧
      SameFiltersBut f s t ∧ SameScheduler s t ∧ SameFaultRegs s t ∧ SameAgents s t)

/-- R106: FLT_CFALL. -/
def Obligations.FltCfallReadsAndClears : Prop :=
  (∀ (w : Word) (f : Handle), decode w = .ok (.fltCfall f) ↔
    w &&& 0xFFFFFFFFFFFF00FF#64 = 0x0000000000000005#64 ∧ f = w.extractLsb' 8 8) ∧
  ∀ (f : Handle) (s : State),
    (s.nf ≤ f.toNat → exec (.fltCfall f) s = .next (s.faulted 0x2 (encode (.fltCfall f)))) ∧
    (f.toNat < s.nf → (s.filter f).constructed = false →
      exec (.fltCfall f) s = .next (s.faulted 0x3 (encode (.fltCfall f)))) ∧
    (f.toNat < s.nf → (s.filter f).constructed = true → ∃ t, exec (.fltCfall f) s = .next t ∧
      t.res = (s.filter f).fall ∧ t.filter f = { s.filter f with fall := false } ∧
      t.trace = [] ∧
      SameFiltersBut f s t ∧ SameScheduler s t ∧ SameFaultRegs s t ∧ SameAgents s t)

/-- R54: FLT_ACT and SCH_INST are idempotent; FLT_CRISE and FLT_CFALL answer 0 the second time. -/
def Obligations.QueriesRepeatAndConsumesDoNot : Prop :=
  (∀ (f : Handle) (s t : State), exec (.fltAct f) s = .next t → t.faultCode = 0 →
    exec (.fltAct f) t = .next t) ∧
  (∀ s t : State, exec .schInst s = .next t → exec .schInst t = .next t) ∧
  (∀ (f : Handle) (s t : State), exec (.fltCrise f) s = .next t → t.faultCode = 0 →
    ∃ u, exec (.fltCrise f) t = .next u ∧ u.res = false ∧ u.filter f = t.filter f) ∧
  (∀ (f : Handle) (s t : State), exec (.fltCfall f) s = .next t → t.faultCode = 0 →
    ∃ u, exec (.fltCfall f) t = .next u ∧ u.res = false ∧ u.filter f = t.filter f)

/-- R27 with R20-R26: which commands may change which field of a filter, and which way. -/
def Obligations.FilterFieldsChangeOnlyAsTheTableSays : Prop :=
  ∀ (i : Instr) (s t : State) (g : Handle), exec i s = .next t → g.toNat < s.nf →
    ((t.filter g).constructed ≠ (s.filter g).constructed →
      (t.filter g).constructed = true ∧ ∃ pol, i = .fltInit g pol) ∧
    ((t.filter g).activeLevel ≠ (s.filter g).activeLevel → ∃ pol, i = .fltInit g pol) ∧
    ((t.filter g).window ≠ (s.filter g).window ∨ (t.filter g).state ≠ (s.filter g).state ∨
        (t.filter g).prevState ≠ (s.filter g).prevState →
      (∃ pol, i = .fltInit g pol) ∨ i = .fltAdv g ∨ (i = .schTick ∧ g ∈ t.trace)) ∧
    ((s.filter g).rise = true → (t.filter g).rise = false →
      (∃ pol, i = .fltInit g pol) ∨ i = .fltCrise g) ∧
    ((s.filter g).rise = false → (t.filter g).rise = true →
      i = .fltAdv g ∨ (i = .schTick ∧ g ∈ t.trace)) ∧
    ((s.filter g).fall = true → (t.filter g).fall = false →
      (∃ pol, i = .fltInit g pol) ∨ i = .fltCfall g) ∧
    ((s.filter g).fall = false → (t.filter g).fall = true →
      i = .fltAdv g ∨ (i = .schTick ∧ g ∈ t.trace))

/-- R27, R63, R215, R216: all that a command does to a filter is to construct it, to clear the one latch it returns, or to advance it some number of times: once for FLT_ADV, once for each slot of its own that is due for SCH_TICK, else not at all. -/
def Obligations.CommandsOnlyInitConsumeOrAdvance : Prop :=
  ∀ (i : Instr) (s t : State) (f : Handle), exec i s = .next t → f.toNat < s.nf →
    (∃ pol, i = .fltInit f pol ∧ t.filter f = DebounceFilter.init pol) ∨
    (i = .fltCrise f ∧ (s.filter f).constructed = true ∧
      t.filter f = { s.filter f with rise := false }) ∨
    (i = .fltCfall f ∧ (s.filter f).constructed = true ∧
      t.filter f = { s.filter f with fall := false }) ∨
    ∃ samples, t.filter f = (s.filter f).advances samples ∧
      samples.length =
        if i = .schTick then s.dueTargets.count f
        else if i = .fltAdv f ∧ (s.filter f).constructed = true then 1 else 0

/-! ### Laws of the filter -/

/-- R107: the level changes only when the new window is unanimous at the opposite level; otherwise level and latches stay. -/
def Obligations.LevelChangesOnlyOnUnanimity : Prop :=
  ∀ (x : DebounceFilter) (b : Bool), x.prevState = x.state →
    ((x.advance b).state ≠ x.state →
      (x.advance b).window = if x.state then 0x00#8 else 0xFF#8) ∧
    ((x.advance b).window ≠ (if x.state then 0x00#8 else 0xFF#8) →
      (x.advance b).state = x.state ∧ (x.advance b).rise = x.rise ∧ (x.advance b).fall = x.fall)

/-- R108: the level moves exactly when all 8 bits of the new window disagree with it: unanimity, no vote. -/
def Obligations.UnanimityNotMajority : Prop :=
  ∀ (x : DebounceFilter) (b : Bool),
    (x.advance b).state ≠ x.state ↔ ∀ k < 8, (x.advance b).window.getLsbD k = !x.state

/-- R42: after FLT_INIT and any samples, bit k of the window is the sample taken k advances ago, and the inactive level where there is none. -/
def Obligations.WindowHoldsTheLastEightSamples : Prop :=
  ∀ (pol : Bool) (samples : List Bool), ∀ k < 8,
    ((DebounceFilter.init pol).advances samples).window.getLsbD k = samples.reverse.getD k (!pol)

/-- R109: with `m` samples of the other level already in, the level changes in the advance that completes 8 of them and in no earlier one; after FLT_INIT, `m` is 0. -/
def Obligations.LevelChangesAtTheEighthSample : Prop :=
  (∀ (x : DebounceFilter) (m n : Nat), m < 8 →
    (∀ k < m, x.window.getLsbD k = !x.state) → x.window.getLsbD m = x.state →
    (x.advances (List.replicate n (!x.state))).state = if m + n < 8 then x.state else !x.state) ∧
  ∀ (pol : Bool) (n : Nat),
    ((DebounceFilter.init pol).advances (List.replicate n pol)).state = if n < 8 then !pol else pol

/-- R110: one advance sets at most one latch, and over any samples the settings alternate: the count of rises and the count of falls differ only by the change of the level. -/
def Obligations.LatchSettingsAlternate : Prop :=
  (∀ (x : DebounceFilter) (b : Bool),
    ¬ (x.setsRise b = true ∧ x.setsFall b = true) ∧
    (x.advance b).rise = (x.rise || x.setsRise b) ∧
    (x.advance b).fall = (x.fall || x.setsFall b)) ∧
  ∀ (x : DebounceFilter) (samples : List Bool), x.prevState = x.state →
    x.riseSettings samples + x.state.toNat =
      x.fallSettings samples + (x.advances samples).state.toNat

/-- R111: a latch once set stays set over any advances, and any number of settings since the last consume reads as one 1, then 0. -/
def Obligations.LatchesPersistAndDoNotCount : Prop :=
  (∀ (x : DebounceFilter) (samples : List Bool),
    (x.advances samples).rise = (x.rise || decide (0 < x.riseSettings samples)) ∧
    (x.advances samples).fall = (x.fall || decide (0 < x.fallSettings samples))) ∧
  (∀ (f : Handle) (s : State), f.toNat < s.nf → (s.filter f).constructed = true →
    ∃ t u, exec (.fltCrise f) s = .next t ∧ exec (.fltCrise f) t = .next u ∧
      t.res = (s.filter f).rise ∧ u.res = false) ∧
  ∀ (f : Handle) (s : State), f.toNat < s.nf → (s.filter f).constructed = true →
    ∃ t u, exec (.fltCfall f) s = .next t ∧ exec (.fltCfall f) t = .next u ∧
      t.res = (s.filter f).fall ∧ u.res = false

/-- R112: a press, the level reaching the active one, sets `rise` on an active-high filter and `fall` on an active-low one; a release the other. -/
def Obligations.EdgesAreOfTheRawLevel : Prop :=
  ∀ (x : DebounceFilter) (b : Bool), x.prevState = x.state → (x.advance b).state ≠ x.state →
    ((x.advance b).state = x.activeLevel → x.activeLevel = true →
      x.setsRise b = true ∧ (x.advance b).rise = true ∧ (x.advance b).fall = x.fall) ∧
    ((x.advance b).state ≠ x.activeLevel → x.activeLevel = true →
      x.setsFall b = true ∧ (x.advance b).fall = true ∧ (x.advance b).rise = x.rise) ∧
    ((x.advance b).state = x.activeLevel → x.activeLevel = false →
      x.setsFall b = true ∧ (x.advance b).fall = true ∧ (x.advance b).rise = x.rise) ∧
    ((x.advance b).state ≠ x.activeLevel → x.activeLevel = false →
      x.setsRise b = true ∧ (x.advance b).rise = true ∧ (x.advance b).fall = x.fall)

/-- R113: samples since FLT_INIT with no 8 in a row at the active level change nothing that can be read. -/
def Obligations.BounceIsRejected : Prop :=
  ∀ (pol : Bool) (samples : List Bool),
    (∀ i, i + 8 ≤ samples.length → ∃ b ∈ (samples.drop i).take 8, b ≠ pol) →
    ((DebounceFilter.init pol).advances samples).state = !pol ∧
    ((DebounceFilter.init pol).advances samples).rise = false ∧
    ((DebounceFilter.init pol).advances samples).fall = false

/-- R218: two settings of one latch are at least 16 advances apart, two settings of different latches at least 8. -/
def Obligations.EdgesAreSixteenAdvancesApart : Prop :=
  ∀ (x : DebounceFilter) (before between : List Bool) (b c : Bool), x.prevState = x.state →
    ((x.advances before).setsRise b = true →
      ((x.advances (before ++ b :: between)).setsRise c = true → 15 ≤ between.length) ∧
      ((x.advances (before ++ b :: between)).setsFall c = true → 7 ≤ between.length)) ∧
    ((x.advances before).setsFall b = true →
      ((x.advances (before ++ b :: between)).setsFall c = true → 15 ≤ between.length) ∧
      ((x.advances (before ++ b :: between)).setsRise c = true → 7 ≤ between.length))

/-! ### Scheduler commands (spec/41_task_scheduler.md) -/

/-- R140: SCH_INST. -/
def Obligations.SchInstAnswersHandleZero : Prop :=
  (∀ w : Word, decode w = .ok .schInst ↔ w = 0x0000000000000010#64) ∧
  ∀ s : State, exec .schInst s = .next { s with res := false, trace := [] }

/-- R141: SCH_REG. -/
def Obligations.SchRegAddsSlotOrReportsFull : Prop :=
  (∀ (w : Word) (h : Handle) (P : Tick), decode w = .ok (.schReg h P) ↔
    w &&& 0x00000000FFFF00FF#64 = 0x0000000000000011#64 ∧ h = w.extractLsb' 8 8 ∧
      P = w.extractLsb' 32 32) ∧
  ∀ (h : Handle) (P : Tick) (s : State),
    (h.toNat < s.nf → (s.filter h).constructed = false →
      exec (.schReg h P) s = .next (s.faulted 0x3 (encode (.schReg h P)))) ∧
    ((h.toNat < s.nf → (s.filter h).constructed = true) → s.count = s.cap →
      exec (.schReg h P) s = .next { s with res := false, trace := [] }) ∧
    ((h.toNat < s.nf → (s.filter h).constructed = true) → s.count < s.cap →
      ∃ t, exec (.schReg h P) s = .next t ∧
        t.slots[s.count]? = some { target := h, period := P, nextDue := P } ∧
        t.count = s.count + 1 ∧ t.res = true ∧ t.trace = [] ∧
        t.cap = s.cap ∧ (∀ j, j ≠ s.count → t.slots[j]? = s.slots[j]?) ∧
        t.tickCounter = s.tickCounter ∧ t.filters = s.filters ∧
        SameFaultRegs s t ∧ SameAgents s t)

/-- R142: SCH_TICK. The due targets are dispatched in slot order, every due slot in use moves on by its period, and the counter moves by one. -/
def Obligations.SchTickFiresDueSlots : Prop :=
  (∀ w : Word, decode w = .ok .schTick ↔ w = 0x0000000000000012#64) ∧
  ∀ s : State, exec .schTick s = .next
    { s.dueTargets.foldl State.dispatch { s with res := false, trace := [] } with
      slots := s.slots.mapIdx fun i x =>
        if i < s.count ∧ (s.tickCounter - x.nextDue) = 0 then
          { x with nextDue := x.nextDue + x.period }
        else x
      tickCounter := s.tickCounter + 1 }

/-- R143 with R74, R39: Dispatch. -/
def Obligations.DispatchEmitsAndAdvances : Prop :=
  ∀ (h : Handle) (s : State),
    (s.nf ≤ h.toNat → s.dispatch h = { s with trace := s.trace ++ [h] }) ∧
    (h.toNat < s.nf →
      (s.dispatch h).trace = s.trace ++ [h] ∧
      (s.dispatch h).filter h = (s.filterAdvance h).filter h ∧
      (s.dispatch h).rawDraws = s.rawDraws.tail ∧ (s.dispatch h).drawCount = s.drawCount + 1 ∧
      (s.dispatch h).inputs = s.inputs ∧ (s.dispatch h).res = s.res ∧
      SameFiltersBut h s (s.dispatch h) ∧ SameScheduler s (s.dispatch h) ∧
      SameFaultRegs s (s.dispatch h))

/-- R142, R148, R27, R151: what SCH_TICK leaves alone, its trace, and one draw for each internal fire. -/
def Obligations.SchTickFrame : Prop :=
  ∀ s : State, ∃ t, exec .schTick s = .next t ∧
    t.trace = s.dueTargets ∧ t.res = false ∧ t.count = s.count ∧ t.nf = s.nf ∧ t.cap = s.cap ∧
    (∀ f, f ∉ s.dueTargets → t.filter f = s.filter f) ∧
    (∀ f, (t.filter f).constructed = (s.filter f).constructed ∧
      (t.filter f).activeLevel = (s.filter f).activeLevel) ∧
    t.drawCount = s.drawCount + (s.dueTargets.filter fun h => decide (h.toNat < s.nf)).length ∧
    SameFaultRegs s t ∧ t.inputs = s.inputs

/-- R151: two slots with one internal target that are both due advance it twice, with two draws, in slot order. -/
def Obligations.DuplicateTargetsAdvanceTwice : Prop :=
  ∀ (s : State) (f : Handle) (a b : Bool) (rest : List Bool), f.toNat < s.nf →
    s.dueTargets = [f, f] → s.rawDraws = a :: b :: rest →
    ∃ t, exec .schTick s = .next t ∧ t.trace = [f, f] ∧
      t.filter f = ((s.filter f).advance a).advance b ∧ t.rawDraws = rest

/-- R149, R28: every SCH_TICK adds exactly 1 to the counter, and no other command changes it. -/
def Obligations.OnlySchTickCounts : Prop :=
  ∀ (i : Instr) (s t : State), exec i s = .next t →
    t.tickCounter = if i = .schTick then s.tickCounter + 1 else s.tickCounter

/-- R39: the trace is empty for every command but SCH_TICK. -/
def Obligations.OnlySchTickHasATrace : Prop :=
  ∀ (i : Instr) (s t : State), exec i s = .next t → i ≠ .schTick → t.trace = []

/-- R37: the result is 1 only for the three filter queries and SCH_REG, and never for a command that faults or is ignored. -/
def Obligations.OnlyQueriesAnswerOne : Prop :=
  ∀ (s t : State) (a : Agent) (w : Word) (rest : List Input),
    s.inputs = .command a w :: rest → step s = .next t → t.res = true →
    s.faultCode = 0 ∧ t.faultCode = 0 ∧ ∃ i, decode w = .ok i ∧
      ((∃ f, i = .fltAct f ∨ i = .fltCrise f ∨ i = .fltCfall f) ∨ ∃ h P, i = .schReg h P)

/-- R29: only a successful SCH_REG changes `count`, by adding 1. -/
def Obligations.OnlyRegistrationChangesCount : Prop :=
  ∀ (i : Instr) (s t : State), exec i s = .next t →
    (∀ h P, i = .schReg h P → t.count = if t.res = true then s.count + 1 else s.count) ∧
    ((∀ h P, i ≠ .schReg h P) → t.count = s.count)

/-- R152: the registry only grows; a slot in use keeps its target and period, and only SCH_TICK changes its `next_due`, by the update of R142. -/
def Obligations.RegistryOnlyGrows : Prop :=
  ∀ (i : Instr) (s t : State), exec i s = .next t → s.count ≤ s.cap →
    s.count ≤ t.count ∧
    ∀ j < s.count, ∀ x, s.slots[j]? = some x → ∃ y, t.slots[j]? = some y ∧
      y.target = x.target ∧ y.period = x.period ∧
      y.nextDue =
        if i = .schTick ∧ x.nextDue = s.tickCounter then x.nextDue + x.period else x.nextDue

/-- R150: from an empty registry CAP registrations succeed, and the next one answers 0 and changes no slot. -/
def Obligations.CapacityRegistrationsSucceed : Prop :=
  ∀ (s : State) (regs : List (Handle × Tick)), s.count = 0 → regs.length = s.cap →
    (∀ r ∈ regs, r.1.toNat < s.nf → (s.filter r.1).constructed = true) →
    (∀ k < s.cap, ∃ t, execAll ((regs.take (k + 1)).map fun r => .schReg r.1 r.2) s = .next t ∧
      t.res = true ∧ t.count = k + 1) ∧
    ∃ t, execAll (regs.map fun r => .schReg r.1 r.2) s = .next t ∧ t.count = s.cap ∧
      ∀ (h : Handle) (P : Tick), (h.toNat < s.nf → (s.filter h).constructed = true) →
        ∃ u, exec (.schReg h P) t = .next u ∧ u.res = false ∧ u.count = s.cap ∧ u.slots = t.slots

/-! ### Laws of firing: `u` is the state a successful SCH_REG leaves, its slot is slot `s.count`, and `t` is the state after any commands executed since (R57, R222), `n` of them SCH_TICK. A command that faults halts the block and the commands behind it are ignored (R183), so the statements speak of a run of the block when none of these commands faults -/

/-- R144: the first fire of a slot registered at a counter value at most its period. -/
def Obligations.FirstFireIsAtThePeriod : Prop :=
  ∀ (s u t : State) (h : Handle) (P : Tick) (cmds : List Instr), s.count ≤ s.cap →
    exec (.schReg h P) s = .next u → u.res = true → 0 < P.toNat →
    s.tickCounter.toNat ≤ P.toNat → execAll cmds u = .next t →
    (cmds.count .schTick < P.toNat - s.tickCounter.toNat → ¬ t.fires s.count) ∧
    (cmds.count .schTick = P.toNat - s.tickCounter.toNat →
      t.fires s.count ∧ t.tickCounter = P)

/-- R145: a slot registered before any tick fires in exactly the SCH_TICKs numbered kP + 1, across every wrap of the counter, whatever other commands that do not fault (R183) come between, and `next_due` moves on by exactly P at each. `n` ticks have passed on entry to SCH_TICK number n + 1. -/
def Obligations.FiresAtExactMultiples : Prop :=
  ∀ (s u t : State) (h : Handle) (P : Tick) (cmds : List Instr), s.count ≤ s.cap →
    s.tickCounter = 0 → exec (.schReg h P) s = .next u → u.res = true → 0 < P.toNat →
    execAll cmds u = .next t →
    (t.fires s.count ↔ ∃ k, 1 ≤ k ∧ cmds.count .schTick = k * P.toNat) ∧
    (t.fires s.count → ∃ (x : Slot) (v : State), t.slots[s.count]? = some x ∧
      exec .schTick t = .next v ∧
      v.slots[s.count]? = some { x with nextDue := x.nextDue + P })

/-- R146: with period 0 `next_due` never changes, and the slot fires once per 2^32 ticks. -/
def Obligations.PeriodZeroFiresOncePerWrap : Prop :=
  ∀ (s u t : State) (h : Handle) (cmds : List Instr), s.count ≤ s.cap →
    exec (.schReg h 0) s = .next u → u.res = true → execAll cmds u = .next t →
    t.slots[s.count]? = some { target := h, period := 0, nextDue := 0 } ∧
    (t.fires s.count ↔ (s.tickCounter.toNat + cmds.count .schTick) % 2 ^ 32 = 0)

/-- R147: a slot registered with a period the counter has passed first fires after the wrap, and then keeps its period (2^32 for period 0, R146): no catch-up. -/
def Obligations.NoCatchUp : Prop :=
  ∀ (s u t : State) (h : Handle) (P : Tick) (cmds : List Instr), s.count ≤ s.cap →
    exec (.schReg h P) s = .next u → u.res = true → P.toNat < s.tickCounter.toNat →
    execAll cmds u = .next t →
    (t.fires s.count ↔
      ∃ k, cmds.count .schTick = (2 ^ 32 - (s.tickCounter.toNat - P.toNat)) +
        k * (if P.toNat = 0 then 2 ^ 32 else P.toNat))

/-- R57, R187: a running block presented `n` ticks in a row by the tick source executes `n` SCH_TICKs. -/
def Obligations.PresentedTicksAreExecuted : Prop :=
  ∀ (s : State) (n : Nat) (rest : List Input), s.faultCode = 0 →
    core.run n { s with inputs := List.replicate n tickInput ++ rest } =
      .next (State.ticks { s with inputs := rest } n)

/-! ### The assembler (spec/30_encoding.md R79, R80) -/

/-- R79: a line with its operands in range assembles to words that decode to its commands; a line out of range is refused. That `flt.advn f, 0` with f above 255 is such a line is the model's choice (log 16). -/
def Obligations.AssembledWordsDecode : Prop :=
  (∀ l : AsmLine, l.wellFormed = true → ∃ ws, assemble l = .ok ws ∧
    ws.map decode = (asmExpand l).map .ok) ∧
  (∀ l : AsmLine, l.wellFormed = false → assemble l = .error .outOfRange) ∧
  ∀ i : Instr, i.WellFormed ∧ assemble i.asmLine = .ok [encode i]

/-- R80: the four pseudo-instructions are their expansions. -/
def Obligations.PseudoInstructionsExpand : Prop :=
  ∀ f n : Nat, f < 256 →
    assemble (.fltInitAh f) = assemble (.fltInit f 1) ∧
    assemble (.fltInitAl f) = assemble (.fltInit f 0) ∧
    assemble (.schTickn n) = .ok (List.replicate n 0x0000000000000012#64) ∧
    ∃ w, assemble (.fltAdv f) = .ok [w] ∧ assemble (.fltAdvn f n) = .ok (List.replicate n w)

/-! ### Invariants and isolation -/

/-- The invariant holds after reset, for every legal NF and CAP. -/
def Obligations.ResetHasTheInvariant : Prop :=
  State.reset.Inv ∧
  ∀ nf cap : Nat, 1 ≤ nf → nf ≤ 256 → 1 ≤ cap → (State.resetWith nf cap).Inv

/-- R5, R27, R32, R40, R41: every step from every state with the invariant keeps it. -/
def Obligations.EveryStepKeepsTheInvariant : Prop :=
  ∀ s t : State, s.Inv → step s = .next t → t.Inv

/-- R43, R44, R45: no command's outcome depends on what is unspecified after reset: two states that differ only there stay so under every step, with equal `res` and trace. `fault_cmd` is one of these fields, and the host can read it on a status output at any time (R32); the statement compares it only while there is a fault. -/
def Obligations.NoOutcomeDependsOnUnspecifiedFields : Prop :=
  ∀ s t s' t' : State, s.LooksLike t → step s = .next s' → step t = .next t' → s'.LooksLike t'

end
end

