-- ==== Sys2Proof/Laws/Decode.lean ====
section
/-! SUPPORT. Words field by field (spec/30_encoding.md R71), what matching a row of R73 means for the fields, and what Decode answers. -/

namespace Sys2Proof

/-- A word from its four fields (R71). -/
def wordOfFields (imm : BitVec 32) (rsv : BitVec 16) (idx op : BitVec 8) : Word :=
  imm ++ rsv ++ idx ++ op

theorem wordOfFields_getLsbD (imm rsv idx op) (i : Nat) :
    (wordOfFields imm rsv idx op).getLsbD i =
      if i < 8 then op.getLsbD i else if i < 16 then idx.getLsbD (i - 8)
      else if i < 32 then rsv.getLsbD (i - 16) else imm.getLsbD (i - 32) := by
  simp only [wordOfFields, BitVec.getLsbD_append]
  have e1 : i - 8 - 8 = i - 16 := by omega
  have e2 : i - 16 - 16 = i - 32 := by omega
  have e3 : (i - 8 < 8) ↔ i < 16 := by omega
  have e4 : (i - 16 < 16) ↔ i < 32 := by omega
  simp only [e1, e2, e3, e4]

theorem wordOfFields_fields (w : Word) :
    wordOfFields (immField w) (rsvField w) (idxField w) (opField w) = w := by
  apply BitVec.eq_of_getLsbD_eq
  intro i hi
  rw [wordOfFields_getLsbD]
  simp only [immField, rsvField, idxField, opField, BitVec.getLsbD_extractLsb']
  split_ifs with h1 h2 h3
  · simp [h1]
  · rw [show 8 + (i - 8) = i by omega]; simp; omega
  · rw [show 16 + (i - 16) = i by omega]; simp; omega
  · rw [show 32 + (i - 32) = i by omega]; simp; omega

@[simp] theorem opField_wordOfFields (imm rsv idx op) :
    opField (wordOfFields imm rsv idx op) = op := by
  apply BitVec.eq_of_getLsbD_eq
  intro i hi
  rw [opField, BitVec.getLsbD_extractLsb', wordOfFields_getLsbD]
  simp [hi]

@[simp] theorem idxField_wordOfFields (imm rsv idx op) :
    idxField (wordOfFields imm rsv idx op) = idx := by
  apply BitVec.eq_of_getLsbD_eq
  intro i hi
  rw [idxField, BitVec.getLsbD_extractLsb', wordOfFields_getLsbD, if_neg (by omega),
    if_pos (by omega), Nat.add_sub_cancel_left]
  simp [hi]

@[simp] theorem rsvField_wordOfFields (imm rsv idx op) :
    rsvField (wordOfFields imm rsv idx op) = rsv := by
  apply BitVec.eq_of_getLsbD_eq
  intro i hi
  rw [rsvField, BitVec.getLsbD_extractLsb', wordOfFields_getLsbD, if_neg (by omega),
    if_neg (by omega), if_pos (by omega), Nat.add_sub_cancel_left]
  simp [hi]

@[simp] theorem immField_wordOfFields (imm rsv idx op) :
    immField (wordOfFields imm rsv idx op) = imm := by
  apply BitVec.eq_of_getLsbD_eq
  intro i hi
  rw [immField, BitVec.getLsbD_extractLsb', wordOfFields_getLsbD, if_neg (by omega),
    if_neg (by omega), if_neg (by omega), Nat.add_sub_cancel_left]
  simp [hi]

theorem wordOfFields_inj {imm rsv idx op imm' rsv' idx' op'} :
    wordOfFields imm rsv idx op = wordOfFields imm' rsv' idx' op' ↔
      imm = imm' ∧ rsv = rsv' ∧ idx = idx' ∧ op = op' := by
  constructor
  · intro h
    exact ⟨by simpa using congrArg immField h, by simpa using congrArg rsvField h,
      by simpa using congrArg idxField h, by simpa using congrArg opField h⟩
  · rintro ⟨rfl, rfl, rfl, rfl⟩
    rfl

theorem packWord_eq (imm : BitVec 32) (idx : Handle) (op : BitVec 8) :
    packWord imm idx op = wordOfFields imm 0 idx op := rfl

theorem polField_eq (w : Word) : polField w = (immField w).getLsbD 0 := by
  simp [polField, immField]

/-- A mask acts on the four fields one by one. -/
theorem and_wordOfFields (w : Word) (mi : BitVec 32) (mr : BitVec 16) (mx mo : BitVec 8) :
    w &&& wordOfFields mi mr mx mo =
      wordOfFields (immField w &&& mi) (rsvField w &&& mr) (idxField w &&& mx) (opField w &&& mo) := by
  conv_lhs => rw [← wordOfFields_fields w]
  apply BitVec.eq_of_getLsbD_eq
  intro i hi
  rw [BitVec.getLsbD_and]
  simp only [wordOfFields_getLsbD, BitVec.getLsbD_and]
  split_ifs <;> rfl

/-- What `(w & mask) == match` says of the fields of `w`. -/
theorem and_eq_fields (w : Word) (mi pi : BitVec 32) (mr pr : BitVec 16) (mx px mo po : BitVec 8) :
    w &&& wordOfFields mi mr mx mo = wordOfFields pi pr px po ↔
      immField w &&& mi = pi ∧ rsvField w &&& mr = pr ∧ idxField w &&& mx = px ∧
        opField w &&& mo = po := by
  rw [and_wordOfFields, wordOfFields_inj]

/-- Only `op`, `rsv` and all of `imm` are fixed (FLT_ADV, FLT_ACT, FLT_CRISE, FLT_CFALL). -/
theorem match_index_row (w : Word) (op : BitVec 8) :
    w &&& 0xFFFFFFFFFFFF00FF#64 = wordOfFields 0#32 0#16 0#8 op ↔
      immField w = 0#32 ∧ rsvField w = 0#16 ∧ opField w = op := by
  have h := and_eq_fields w (BitVec.allOnes 32) 0#32 (BitVec.allOnes 16) 0#16 0#8 0#8
    (BitVec.allOnes 8) op
  simp only [BitVec.and_allOnes, BitVec.and_zero, true_and] at h
  exact h

/-- Every field is fixed (SCH_INST, SCH_TICK). -/
theorem match_whole_row (w p : Word) : w &&& 0xFFFFFFFFFFFFFFFF#64 = p ↔ w = p := by
  rw [show (0xFFFFFFFFFFFFFFFF#64 : Word) = BitVec.allOnes 64 by decide, BitVec.and_allOnes]

/-- Only `op` and `rsv` are fixed (SCH_REG). -/
theorem match_period_row (w : Word) (op : BitVec 8) :
    w &&& 0x00000000FFFF00FF#64 = wordOfFields 0#32 0#16 0#8 op ↔
      rsvField w = 0#16 ∧ opField w = op := by
  have h := and_eq_fields w 0#32 0#32 (BitVec.allOnes 16) 0#16 0#8 0#8 (BitVec.allOnes 8) op
  simp only [BitVec.and_allOnes, BitVec.and_zero, true_and] at h
  exact h

/-- `imm[31:1]`, `rsv` and `op` are fixed (FLT_INIT). -/
theorem match_polarity_row (w : Word) (op : BitVec 8) :
    w &&& 0xFFFFFFFEFFFF00FF#64 = wordOfFields 0#32 0#16 0#8 op ↔
      immField w &&& 0xFFFFFFFE#32 = 0#32 ∧ rsvField w = 0#16 ∧ opField w = op := by
  have h := and_eq_fields w 0xFFFFFFFE#32 0#32 (BitVec.allOnes 16) 0#16 0#8 0#8
    (BitVec.allOnes 8) op
  simp only [BitVec.and_allOnes, BitVec.and_zero, true_and] at h
  exact h

/-- An `imm` whose bits 31:1 are clear is one bit. -/
theorem imm_polarity (v : BitVec 32) (h : v &&& 0xFFFFFFFE#32 = 0#32) :
    v = BitVec.zeroExtend 32 (BitVec.ofBool (v.getLsbD 0)) := by
  apply BitVec.eq_of_getLsbD_eq
  intro i hi
  have hb := congrArg (fun x => BitVec.getLsbD x i) h
  simp only [BitVec.getLsbD_and] at hb
  by_cases h0 : i = 0
  · subst h0; simp
  · have hm : ∀ j < 32, j ≠ 0 → (0xFFFFFFFE#32).getLsbD j = true := by decide
    rw [hm i hi h0] at hb
    have h1 : ¬ i < 1 := by omega
    simp_all

/-- Decode by fields: the handy form of the mask table of R73. -/
def decodeFields (w : Word) : Option Instr :=
  if rsvField w = 0#16 then
    if opField w = 0x01#8 then
      if immField w &&& 0xFFFFFFFE#32 = 0#32 then some (.fltInit (idxField w) (polField w)) else none
    else if opField w = 0x02#8 then if immField w = 0#32 then some (.fltAdv (idxField w)) else none
    else if opField w = 0x03#8 then if immField w = 0#32 then some (.fltAct (idxField w)) else none
    else if opField w = 0x04#8 then if immField w = 0#32 then some (.fltCrise (idxField w)) else none
    else if opField w = 0x05#8 then if immField w = 0#32 then some (.fltCfall (idxField w)) else none
    else if opField w = 0x10#8 then
      if immField w = 0#32 ∧ idxField w = 0#8 then some .schInst else none
    else if opField w = 0x11#8 then some (.schReg (idxField w) (immField w))
    else if opField w = 0x12#8 then
      if immField w = 0#32 ∧ idxField w = 0#8 then some .schTick else none
    else none
  else none

/-- A word equal to one with `op` alone set. -/
theorem eq_op_word (w : Word) (op : BitVec 8) :
    w = wordOfFields 0#32 0#16 0#8 op ↔ immField w = 0#32 ∧ rsvField w = 0#16 ∧ idxField w = 0#8 ∧ opField w = op := by
  conv_lhs => rw [← wordOfFields_fields w]
  exact wordOfFields_inj

/-- Decode through the table and decode by fields agree. -/
theorem decode_eq_fields (w : Word) :
    decode w = match decodeFields w with
      | some i => .ok i
      | none => .error (illegalReason w) := by
  have h1 : (w &&& 0xFFFFFFFEFFFF00FF#64 = 0x0000000000000001#64) ↔ _ := match_polarity_row w 0x01#8
  have h2 : (w &&& 0xFFFFFFFFFFFF00FF#64 = 0x0000000000000002#64) ↔ _ := match_index_row w 0x02#8
  have h3 : (w &&& 0xFFFFFFFFFFFF00FF#64 = 0x0000000000000003#64) ↔ _ := match_index_row w 0x03#8
  have h4 : (w &&& 0xFFFFFFFFFFFF00FF#64 = 0x0000000000000004#64) ↔ _ := match_index_row w 0x04#8
  have h5 : (w &&& 0xFFFFFFFFFFFF00FF#64 = 0x0000000000000005#64) ↔ _ := match_index_row w 0x05#8
  have h6 : (w &&& 0xFFFFFFFFFFFFFFFF#64 = 0x0000000000000010#64) ↔ _ :=
    (match_whole_row w _).trans (eq_op_word w 0x10#8)
  have h7 : (w &&& 0x00000000FFFF00FF#64 = 0x0000000000000011#64) ↔ _ := match_period_row w 0x11#8
  have h8 : (w &&& 0xFFFFFFFFFFFFFFFF#64 = 0x0000000000000012#64) ↔ _ :=
    (match_whole_row w _).trans (eq_op_word w 0x12#8)
  simp only [decode, opcodeTable, List.find?, OpcodeRow.matches, decodeFields, beq_eq_decide,
    h1, h2, h3, h4, h5, h6, h7, h8]
  by_cases hr : rsvField w = 0#16
  · by_cases c1 : opField w = 0x01#8
    · by_cases d : immField w &&& 0xFFFFFFFE#32 = 0#32 <;> simp [hr, c1, d]
    by_cases c2 : opField w = 0x02#8
    · by_cases d : immField w = 0#32 <;> simp [hr, c2, d]
    by_cases c3 : opField w = 0x03#8
    · by_cases d : immField w = 0#32 <;> simp [hr, c3, d]
    by_cases c4 : opField w = 0x04#8
    · by_cases d : immField w = 0#32 <;> simp [hr, c4, d]
    by_cases c5 : opField w = 0x05#8
    · by_cases d : immField w = 0#32 <;> simp [hr, c5, d]
    by_cases c6 : opField w = 0x10#8
    · by_cases d : immField w = 0#32 <;> by_cases d' : idxField w = 0#8 <;> simp [hr, c6, d, d']
    by_cases c7 : opField w = 0x11#8
    · simp [hr, c7]
    by_cases c8 : opField w = 0x12#8
    · by_cases d : immField w = 0#32 <;> by_cases d' : idxField w = 0#8 <;> simp [hr, c8, d, d']
    simp [c1, c2, c3, c4, c5, c6, c7, c8]
  · simp [hr]

theorem decode_ok_iff (w : Word) (i : Instr) : decode w = .ok i ↔ decodeFields w = some i := by
  rw [decode_eq_fields]
  cases decodeFields w <;> simp

theorem decode_error_iff (w : Word) : (∃ e, decode w = .error e) ↔ decodeFields w = none := by
  rw [decode_eq_fields]
  cases decodeFields w <;> simp

end Sys2Proof
end

