-- ==== Sys2Proof/Laws/State.lean ====
section
/-! SUPPORT. One lemma per field per update, true by rfl, so that no later proof unfolds a record update. -/

namespace Sys2Proof.Machine

section
variable (s : State)

/-! ### setFilter -/

@[simp] theorem State.setFilter_filters (f : Handle) (x : DebounceFilter) :
    (s.setFilter f x).filters = s.filters.set f.toNat x := rfl
@[simp] theorem State.setFilter_tickCounter (f : Handle) (x : DebounceFilter) :
    (s.setFilter f x).tickCounter = s.tickCounter := rfl
@[simp] theorem State.setFilter_count (f : Handle) (x : DebounceFilter) :
    (s.setFilter f x).count = s.count := rfl
@[simp] theorem State.setFilter_slots (f : Handle) (x : DebounceFilter) :
    (s.setFilter f x).slots = s.slots := rfl
@[simp] theorem State.setFilter_faultCode (f : Handle) (x : DebounceFilter) :
    (s.setFilter f x).faultCode = s.faultCode := rfl
@[simp] theorem State.setFilter_faultCmd (f : Handle) (x : DebounceFilter) :
    (s.setFilter f x).faultCmd = s.faultCmd := rfl
@[simp] theorem State.setFilter_res (f : Handle) (x : DebounceFilter) :
    (s.setFilter f x).res = s.res := rfl
@[simp] theorem State.setFilter_trace (f : Handle) (x : DebounceFilter) :
    (s.setFilter f x).trace = s.trace := rfl
@[simp] theorem State.setFilter_inputs (f : Handle) (x : DebounceFilter) :
    (s.setFilter f x).inputs = s.inputs := rfl
@[simp] theorem State.setFilter_rawDraws (f : Handle) (x : DebounceFilter) :
    (s.setFilter f x).rawDraws = s.rawDraws := rfl
@[simp] theorem State.setFilter_drawCount (f : Handle) (x : DebounceFilter) :
    (s.setFilter f x).drawCount = s.drawCount := rfl

/-! ### setSlot -/

@[simp] theorem State.setSlot_filters (i : Nat) (x : Slot) :
    (s.setSlot i x).filters = s.filters := rfl
@[simp] theorem State.setSlot_tickCounter (i : Nat) (x : Slot) :
    (s.setSlot i x).tickCounter = s.tickCounter := rfl
@[simp] theorem State.setSlot_count (i : Nat) (x : Slot) :
    (s.setSlot i x).count = s.count := rfl
@[simp] theorem State.setSlot_slots (i : Nat) (x : Slot) :
    (s.setSlot i x).slots = s.slots.set i x := rfl
@[simp] theorem State.setSlot_faultCode (i : Nat) (x : Slot) :
    (s.setSlot i x).faultCode = s.faultCode := rfl
@[simp] theorem State.setSlot_faultCmd (i : Nat) (x : Slot) :
    (s.setSlot i x).faultCmd = s.faultCmd := rfl
@[simp] theorem State.setSlot_res (i : Nat) (x : Slot) :
    (s.setSlot i x).res = s.res := rfl
@[simp] theorem State.setSlot_trace (i : Nat) (x : Slot) :
    (s.setSlot i x).trace = s.trace := rfl
@[simp] theorem State.setSlot_inputs (i : Nat) (x : Slot) :
    (s.setSlot i x).inputs = s.inputs := rfl
@[simp] theorem State.setSlot_rawDraws (i : Nat) (x : Slot) :
    (s.setSlot i x).rawDraws = s.rawDraws := rfl
@[simp] theorem State.setSlot_drawCount (i : Nat) (x : Slot) :
    (s.setSlot i x).drawCount = s.drawCount := rfl

/-! ### addSlot -/

@[simp] theorem State.addSlot_filters (x : Slot) :
    (s.addSlot x).filters = s.filters := rfl
@[simp] theorem State.addSlot_tickCounter (x : Slot) :
    (s.addSlot x).tickCounter = s.tickCounter := rfl
@[simp] theorem State.addSlot_count (x : Slot) :
    (s.addSlot x).count = s.count + 1 := rfl
@[simp] theorem State.addSlot_slots (x : Slot) :
    (s.addSlot x).slots = s.slots.set s.count x := rfl
@[simp] theorem State.addSlot_faultCode (x : Slot) :
    (s.addSlot x).faultCode = s.faultCode := rfl
@[simp] theorem State.addSlot_faultCmd (x : Slot) :
    (s.addSlot x).faultCmd = s.faultCmd := rfl
@[simp] theorem State.addSlot_res (x : Slot) :
    (s.addSlot x).res = s.res := rfl
@[simp] theorem State.addSlot_trace (x : Slot) :
    (s.addSlot x).trace = s.trace := rfl
@[simp] theorem State.addSlot_inputs (x : Slot) :
    (s.addSlot x).inputs = s.inputs := rfl
@[simp] theorem State.addSlot_rawDraws (x : Slot) :
    (s.addSlot x).rawDraws = s.rawDraws := rfl
@[simp] theorem State.addSlot_drawCount (x : Slot) :
    (s.addSlot x).drawCount = s.drawCount := rfl

/-! ### countTick -/

@[simp] theorem State.countTick_filters :
    (s.countTick).filters = s.filters := rfl
@[simp] theorem State.countTick_tickCounter :
    (s.countTick).tickCounter = s.tickCounter + 1 := rfl
@[simp] theorem State.countTick_count :
    (s.countTick).count = s.count := rfl
@[simp] theorem State.countTick_slots :
    (s.countTick).slots = s.slots := rfl
@[simp] theorem State.countTick_faultCode :
    (s.countTick).faultCode = s.faultCode := rfl
@[simp] theorem State.countTick_faultCmd :
    (s.countTick).faultCmd = s.faultCmd := rfl
@[simp] theorem State.countTick_res :
    (s.countTick).res = s.res := rfl
@[simp] theorem State.countTick_trace :
    (s.countTick).trace = s.trace := rfl
@[simp] theorem State.countTick_inputs :
    (s.countTick).inputs = s.inputs := rfl
@[simp] theorem State.countTick_rawDraws :
    (s.countTick).rawDraws = s.rawDraws := rfl
@[simp] theorem State.countTick_drawCount :
    (s.countTick).drawCount = s.drawCount := rfl

/-! ### answer -/

@[simp] theorem State.answer_filters (r : Bool) :
    (s.answer r).filters = s.filters := rfl
@[simp] theorem State.answer_tickCounter (r : Bool) :
    (s.answer r).tickCounter = s.tickCounter := rfl
@[simp] theorem State.answer_count (r : Bool) :
    (s.answer r).count = s.count := rfl
@[simp] theorem State.answer_slots (r : Bool) :
    (s.answer r).slots = s.slots := rfl
@[simp] theorem State.answer_faultCode (r : Bool) :
    (s.answer r).faultCode = s.faultCode := rfl
@[simp] theorem State.answer_faultCmd (r : Bool) :
    (s.answer r).faultCmd = s.faultCmd := rfl
@[simp] theorem State.answer_res (r : Bool) :
    (s.answer r).res = r := rfl
@[simp] theorem State.answer_trace (r : Bool) :
    (s.answer r).trace = [] := rfl
@[simp] theorem State.answer_inputs (r : Bool) :
    (s.answer r).inputs = s.inputs := rfl
@[simp] theorem State.answer_rawDraws (r : Bool) :
    (s.answer r).rawDraws = s.rawDraws := rfl
@[simp] theorem State.answer_drawCount (r : Bool) :
    (s.answer r).drawCount = s.drawCount := rfl

/-! ### emit -/

@[simp] theorem State.emit_filters (h : Handle) :
    (s.emit h).filters = s.filters := rfl
@[simp] theorem State.emit_tickCounter (h : Handle) :
    (s.emit h).tickCounter = s.tickCounter := rfl
@[simp] theorem State.emit_count (h : Handle) :
    (s.emit h).count = s.count := rfl
@[simp] theorem State.emit_slots (h : Handle) :
    (s.emit h).slots = s.slots := rfl
@[simp] theorem State.emit_faultCode (h : Handle) :
    (s.emit h).faultCode = s.faultCode := rfl
@[simp] theorem State.emit_faultCmd (h : Handle) :
    (s.emit h).faultCmd = s.faultCmd := rfl
@[simp] theorem State.emit_res (h : Handle) :
    (s.emit h).res = s.res := rfl
@[simp] theorem State.emit_trace (h : Handle) :
    (s.emit h).trace = s.trace ++ [h] := rfl
@[simp] theorem State.emit_inputs (h : Handle) :
    (s.emit h).inputs = s.inputs := rfl
@[simp] theorem State.emit_rawDraws (h : Handle) :
    (s.emit h).rawDraws = s.rawDraws := rfl
@[simp] theorem State.emit_drawCount (h : Handle) :
    (s.emit h).drawCount = s.drawCount := rfl

/-! ### afterDraw -/

@[simp] theorem State.afterDraw_filters :
    (s.afterDraw).filters = s.filters := rfl
@[simp] theorem State.afterDraw_tickCounter :
    (s.afterDraw).tickCounter = s.tickCounter := rfl
@[simp] theorem State.afterDraw_count :
    (s.afterDraw).count = s.count := rfl
@[simp] theorem State.afterDraw_slots :
    (s.afterDraw).slots = s.slots := rfl
@[simp] theorem State.afterDraw_faultCode :
    (s.afterDraw).faultCode = s.faultCode := rfl
@[simp] theorem State.afterDraw_faultCmd :
    (s.afterDraw).faultCmd = s.faultCmd := rfl
@[simp] theorem State.afterDraw_res :
    (s.afterDraw).res = s.res := rfl
@[simp] theorem State.afterDraw_trace :
    (s.afterDraw).trace = s.trace := rfl
@[simp] theorem State.afterDraw_inputs :
    (s.afterDraw).inputs = s.inputs := rfl
@[simp] theorem State.afterDraw_rawDraws :
    (s.afterDraw).rawDraws = s.rawDraws.tail := rfl
@[simp] theorem State.afterDraw_drawCount :
    (s.afterDraw).drawCount = s.drawCount + 1 := rfl

/-! ### raiseFault -/

@[simp] theorem State.raiseFault_filters (c : FaultCause) (w : Word) :
    (s.raiseFault c w).filters = s.filters := rfl
@[simp] theorem State.raiseFault_tickCounter (c : FaultCause) (w : Word) :
    (s.raiseFault c w).tickCounter = s.tickCounter := rfl
@[simp] theorem State.raiseFault_count (c : FaultCause) (w : Word) :
    (s.raiseFault c w).count = s.count := rfl
@[simp] theorem State.raiseFault_slots (c : FaultCause) (w : Word) :
    (s.raiseFault c w).slots = s.slots := rfl
@[simp] theorem State.raiseFault_faultCode (c : FaultCause) (w : Word) :
    (s.raiseFault c w).faultCode = c.code := rfl
@[simp] theorem State.raiseFault_faultCmd (c : FaultCause) (w : Word) :
    (s.raiseFault c w).faultCmd = w := rfl
@[simp] theorem State.raiseFault_res (c : FaultCause) (w : Word) :
    (s.raiseFault c w).res = false := rfl
@[simp] theorem State.raiseFault_trace (c : FaultCause) (w : Word) :
    (s.raiseFault c w).trace = [] := rfl
@[simp] theorem State.raiseFault_inputs (c : FaultCause) (w : Word) :
    (s.raiseFault c w).inputs = s.inputs := rfl
@[simp] theorem State.raiseFault_rawDraws (c : FaultCause) (w : Word) :
    (s.raiseFault c w).rawDraws = s.rawDraws := rfl
@[simp] theorem State.raiseFault_drawCount (c : FaultCause) (w : Word) :
    (s.raiseFault c w).drawCount = s.drawCount := rfl

/-! ### ignoreCommand -/

@[simp] theorem State.ignoreCommand_filters :
    (s.ignoreCommand).filters = s.filters := rfl
@[simp] theorem State.ignoreCommand_tickCounter :
    (s.ignoreCommand).tickCounter = s.tickCounter := rfl
@[simp] theorem State.ignoreCommand_count :
    (s.ignoreCommand).count = s.count := rfl
@[simp] theorem State.ignoreCommand_slots :
    (s.ignoreCommand).slots = s.slots := rfl
@[simp] theorem State.ignoreCommand_faultCode :
    (s.ignoreCommand).faultCode = s.faultCode := rfl
@[simp] theorem State.ignoreCommand_faultCmd :
    (s.ignoreCommand).faultCmd = s.faultCmd := rfl
@[simp] theorem State.ignoreCommand_res :
    (s.ignoreCommand).res = false := rfl
@[simp] theorem State.ignoreCommand_trace :
    (s.ignoreCommand).trace = [] := rfl
@[simp] theorem State.ignoreCommand_inputs :
    (s.ignoreCommand).inputs = s.inputs := rfl
@[simp] theorem State.ignoreCommand_rawDraws :
    (s.ignoreCommand).rawDraws = s.rawDraws := rfl
@[simp] theorem State.ignoreCommand_drawCount :
    (s.ignoreCommand).drawCount = s.drawCount := rfl

/-! ### popInput -/

@[simp] theorem State.popInput_filters :
    (s.popInput).filters = s.filters := rfl
@[simp] theorem State.popInput_tickCounter :
    (s.popInput).tickCounter = s.tickCounter := rfl
@[simp] theorem State.popInput_count :
    (s.popInput).count = s.count := rfl
@[simp] theorem State.popInput_slots :
    (s.popInput).slots = s.slots := rfl
@[simp] theorem State.popInput_faultCode :
    (s.popInput).faultCode = s.faultCode := rfl
@[simp] theorem State.popInput_faultCmd :
    (s.popInput).faultCmd = s.faultCmd := rfl
@[simp] theorem State.popInput_res :
    (s.popInput).res = s.res := rfl
@[simp] theorem State.popInput_trace :
    (s.popInput).trace = s.trace := rfl
@[simp] theorem State.popInput_inputs :
    (s.popInput).inputs = s.inputs.tail := rfl
@[simp] theorem State.popInput_rawDraws :
    (s.popInput).rawDraws = s.rawDraws := rfl
@[simp] theorem State.popInput_drawCount :
    (s.popInput).drawCount = s.drawCount := rfl

/-! ### filterAdvance -/

@[simp] theorem State.filterAdvance_filters (f : Handle) :
    (s.filterAdvance f).filters = s.filters.set f.toNat ((s.filter f).advance (s.nextSample f)) := rfl
@[simp] theorem State.filterAdvance_tickCounter (f : Handle) :
    (s.filterAdvance f).tickCounter = s.tickCounter := rfl
@[simp] theorem State.filterAdvance_count (f : Handle) :
    (s.filterAdvance f).count = s.count := rfl
@[simp] theorem State.filterAdvance_slots (f : Handle) :
    (s.filterAdvance f).slots = s.slots := rfl
@[simp] theorem State.filterAdvance_faultCode (f : Handle) :
    (s.filterAdvance f).faultCode = s.faultCode := rfl
@[simp] theorem State.filterAdvance_faultCmd (f : Handle) :
    (s.filterAdvance f).faultCmd = s.faultCmd := rfl
@[simp] theorem State.filterAdvance_res (f : Handle) :
    (s.filterAdvance f).res = s.res := rfl
@[simp] theorem State.filterAdvance_trace (f : Handle) :
    (s.filterAdvance f).trace = s.trace := rfl
@[simp] theorem State.filterAdvance_inputs (f : Handle) :
    (s.filterAdvance f).inputs = s.inputs := rfl
@[simp] theorem State.filterAdvance_rawDraws (f : Handle) :
    (s.filterAdvance f).rawDraws = s.rawDraws.tail := rfl
@[simp] theorem State.filterAdvance_drawCount (f : Handle) :
    (s.filterAdvance f).drawCount = s.drawCount + 1 := rfl

/-! ### applyReset and resetWith -/

@[simp] theorem State.applyReset_filters :
    s.applyReset.filters = List.replicate s.nf DebounceFilter.reset := rfl
@[simp] theorem State.applyReset_tickCounter :
    s.applyReset.tickCounter = 0 := rfl
@[simp] theorem State.applyReset_count :
    s.applyReset.count = 0 := rfl
@[simp] theorem State.applyReset_slots :
    s.applyReset.slots = List.replicate s.cap Slot.reset := rfl
@[simp] theorem State.applyReset_faultCode :
    s.applyReset.faultCode = 0 := rfl
@[simp] theorem State.applyReset_faultCmd :
    s.applyReset.faultCmd = 0 := rfl
@[simp] theorem State.applyReset_res :
    s.applyReset.res = false := rfl
@[simp] theorem State.applyReset_trace :
    s.applyReset.trace = [] := rfl
@[simp] theorem State.applyReset_inputs :
    s.applyReset.inputs = s.inputs := rfl
@[simp] theorem State.applyReset_rawDraws :
    s.applyReset.rawDraws = s.rawDraws := rfl
@[simp] theorem State.applyReset_drawCount :
    s.applyReset.drawCount = s.drawCount := rfl
end

end Sys2Proof.Machine
end

