-- ==== Sys2Proof/Laws/Filter.lean ====
section
/-! SUPPORT. Reading filters after writes, one advance field by field, the bits of a window, and what each filter command can do. -/

namespace Sys2Proof.Machine

/-! ### Reading and writing filters -/

theorem State.filter_eq_getElem {s : State} {f : Handle} (h : f.toNat < s.filters.length) :
    s.filter f = s.filters[f.toNat] := by
  simp [State.filter, h]

/-- Past NF there is no filter to read. -/
theorem State.filter_of_nf_le {s : State} {f : Handle} (h : s.nf ≤ f.toNat) :
    s.filter f = DebounceFilter.reset := by
  simp only [State.filter, State.nf] at *
  rw [List.getD_eq_getElem?_getD, List.getElem?_eq_none h]; rfl

/-- What `filter` reads depends on the filters alone. -/
theorem State.filter_congr {s t : State} (h : t.filters = s.filters) (g : Handle) :
    t.filter g = s.filter g := by simp [State.filter, h]

theorem State.nf_congr {s t : State} (h : t.filters = s.filters) : t.nf = s.nf := by
  simp [State.nf, h]

theorem State.cap_congr {s t : State} (h : t.slots = s.slots) : t.cap = s.cap := by
  simp [State.cap, h]

@[simp] theorem State.setFilter_nf (s : State) (f : Handle) (x : DebounceFilter) :
    (s.setFilter f x).nf = s.nf := by simp [State.nf]

theorem State.setFilter_filter_self {s : State} {f : Handle} (h : f.toNat < s.nf)
    (x : DebounceFilter) : (s.setFilter f x).filter f = x := by
  simp only [State.nf] at h
  simp [State.filter, h]

theorem State.setFilter_filter_ne (s : State) {f g : Handle} (h : g ≠ f) (x : DebounceFilter) :
    (s.setFilter f x).filter g = s.filter g := by
  have : f.toNat ≠ g.toNat := fun e => h (BitVec.eq_of_toNat_eq e.symm)
  simp [State.filter, List.getD_eq_getElem?_getD, List.getElem?_set_ne this]

@[simp] theorem State.filterAdvance_nf (s : State) (f : Handle) :
    (s.filterAdvance f).nf = s.nf := by simp [State.nf]

theorem State.filterAdvance_filter_self {s : State} {f : Handle} (h : f.toNat < s.nf) :
    (s.filterAdvance f).filter f = (s.filter f).advance (s.nextSample f) :=
  State.setFilter_filter_self (s := s.afterDraw) h _

theorem State.filterAdvance_filter_ne (s : State) {f g : Handle} (h : g ≠ f) :
    (s.filterAdvance f).filter g = s.filter g :=
  State.setFilter_filter_ne s.afterDraw h _

theorem State.nextSample_cons {s : State} {b : Bool} {rest : List Bool} (h : s.rawDraws = b :: rest)
    (f : Handle) : s.nextSample f = b := by simp [State.nextSample, h]

theorem State.nextSample_nil {s : State} (h : s.rawDraws = []) (f : Handle) :
    s.nextSample f = Config.rawLevel s.drawCount f := by simp [State.nextSample, h]

/-! ### NF, CAP and the filters after the other updates -/

section
variable (s : State)

@[simp] theorem State.answer_nf (r : Bool) : (s.answer r).nf = s.nf := rfl
@[simp] theorem State.answer_cap (r : Bool) : (s.answer r).cap = s.cap := rfl
@[simp] theorem State.answer_filter (r : Bool) (g : Handle) :
    (s.answer r).filter g = s.filter g := rfl
@[simp] theorem State.raiseFault_nf (c : FaultCause) (w : Word) : (s.raiseFault c w).nf = s.nf := rfl
@[simp] theorem State.raiseFault_cap (c : FaultCause) (w : Word) :
    (s.raiseFault c w).cap = s.cap := rfl
@[simp] theorem State.raiseFault_filter (c : FaultCause) (w : Word) (g : Handle) :
    (s.raiseFault c w).filter g = s.filter g := rfl
@[simp] theorem State.ignoreCommand_nf : s.ignoreCommand.nf = s.nf := rfl
@[simp] theorem State.ignoreCommand_cap : s.ignoreCommand.cap = s.cap := rfl
@[simp] theorem State.ignoreCommand_filter (g : Handle) :
    s.ignoreCommand.filter g = s.filter g := rfl
@[simp] theorem State.popInput_nf : s.popInput.nf = s.nf := rfl
@[simp] theorem State.popInput_cap : s.popInput.cap = s.cap := rfl
@[simp] theorem State.popInput_filter (g : Handle) : s.popInput.filter g = s.filter g := rfl
@[simp] theorem State.emit_nf (h : Handle) : (s.emit h).nf = s.nf := rfl
@[simp] theorem State.emit_filter (h g : Handle) : (s.emit h).filter g = s.filter g := rfl
@[simp] theorem State.setFilter_cap (f : Handle) (x : DebounceFilter) :
    (s.setFilter f x).cap = s.cap := rfl
@[simp] theorem State.filterAdvance_cap (f : Handle) : (s.filterAdvance f).cap = s.cap := rfl
@[simp] theorem State.addSlot_nf (x : Slot) : (s.addSlot x).nf = s.nf := rfl
@[simp] theorem State.addSlot_cap (x : Slot) : (s.addSlot x).cap = s.cap := by simp [State.cap]
@[simp] theorem State.addSlot_filter (x : Slot) (g : Handle) :
    (s.addSlot x).filter g = s.filter g := rfl
@[simp] theorem State.applyReset_nf : s.applyReset.nf = s.nf := by simp [State.nf]
@[simp] theorem State.applyReset_cap : s.applyReset.cap = s.cap := by simp [State.cap]
@[simp] theorem State.applyReset_filter (g : Handle) :
    s.applyReset.filter g = DebounceFilter.reset := by
  simp only [State.filter, State.applyReset_filters, List.getD_eq_getElem?_getD,
    List.getElem?_replicate]
  split <;> rfl

end

/-! ### CheckFilter (R100) -/

theorem State.checkFilter_badIndex {s : State} {f : Handle} (n : Bool) (h : s.nf ≤ f.toNat) :
    s.checkFilter f n = some .badIndex := by simp [State.checkFilter, h]

theorem State.checkFilter_unconstructed {s : State} {f : Handle} (h : f.toNat < s.nf)
    (hc : (s.filter f).constructed = false) : s.checkFilter f true = some .unconstructed := by
  have : ¬ s.nf ≤ f.toNat := by omega
  simp [State.checkFilter, this, hc]

theorem State.checkFilter_constructed {s : State} {f : Handle} (n : Bool) (h : f.toNat < s.nf)
    (hc : (s.filter f).constructed = true) : s.checkFilter f n = none := by
  have : ¬ s.nf ≤ f.toNat := by omega
  simp [State.checkFilter, this, hc]

theorem State.checkFilter_init {s : State} {f : Handle} (h : f.toNat < s.nf) :
    s.checkFilter f false = none := by
  have : ¬ s.nf ≤ f.toNat := by omega
  simp [State.checkFilter, this]

/-- Everything a filter command can do: fault on its index, fault on its construction, or its effect. -/
theorem State.withFilter_cases {s t : State} {f : Handle} {n : Bool} {i : Instr}
    {effect : DebounceFilter → State} (h : s.withFilter f n i effect = .next t) :
    (s.nf ≤ f.toNat ∧ t = s.raiseFault .badIndex (encode i)) ∨
    (f.toNat < s.nf ∧ n = true ∧ (s.filter f).constructed = false ∧
      t = s.raiseFault .unconstructed (encode i)) ∨
    (f.toNat < s.nf ∧ (n = true → (s.filter f).constructed = true) ∧ t = effect (s.filter f)) := by
  by_cases h1 : s.nf ≤ f.toNat
  · rw [State.withFilter, State.checkFilter_badIndex n h1] at h
    exact .inl ⟨h1, by simpa using h.symm⟩
  have h1' : f.toNat < s.nf := by omega
  cases hc : (s.filter f).constructed <;> cases n
  · rw [State.withFilter, State.checkFilter_init h1'] at h
    exact .inr (.inr ⟨h1', by simp, by simpa using h.symm⟩)
  · rw [State.withFilter, State.checkFilter_unconstructed h1' hc] at h
    exact .inr (.inl ⟨h1', rfl, rfl, by simpa using h.symm⟩)
  all_goals
    rw [State.withFilter, State.checkFilter_constructed _ h1' hc] at h
    exact .inr (.inr ⟨h1', by simp, by simpa using h.symm⟩)

/-- A filter command always answers a next state. -/
theorem State.withFilter_next (s : State) (f : Handle) (n : Bool) (i : Instr)
    (effect : DebounceFilter → State) : ∃ t, s.withFilter f n i effect = .next t := by
  unfold State.withFilter
  split <;> exact ⟨_, rfl⟩

/-! ### One advance (R101) -/

section
variable (x : DebounceFilter) (b : Bool)

@[simp] theorem DebounceFilter.advance_constructed :
    (x.advance b).constructed = x.constructed := rfl
@[simp] theorem DebounceFilter.advance_activeLevel :
    (x.advance b).activeLevel = x.activeLevel := rfl
@[simp] theorem DebounceFilter.advance_prevState : (x.advance b).prevState = (x.advance b).state := rfl
theorem DebounceFilter.advance_window : (x.advance b).window = shiftIn x.window b := rfl
theorem DebounceFilter.advance_state :
    (x.advance b).state = settledLevel (x.advance b).window x.state := rfl
theorem DebounceFilter.advance_rise : (x.advance b).rise = (x.rise || x.setsRise b) := by
  change riseAfter x.prevState (x.advance b).state x.rise = _
  simp only [riseAfter, DebounceFilter.setsRise]
  cases x.rise <;> cases (x.advance b).state <;> cases x.prevState <;> rfl
theorem DebounceFilter.advance_fall : (x.advance b).fall = (x.fall || x.setsFall b) := by
  change fallAfter x.prevState (x.advance b).state x.fall = _
  simp only [fallAfter, DebounceFilter.setsFall]
  cases x.fall <;> cases (x.advance b).state <;> cases x.prevState <;> rfl

end

@[simp] theorem DebounceFilter.advances_nil (x : DebounceFilter) : x.advances [] = x := rfl

@[simp] theorem DebounceFilter.advances_cons (x : DebounceFilter) (b : Bool) (l : List Bool) :
    x.advances (b :: l) = (x.advance b).advances l := rfl

theorem DebounceFilter.advances_append (x : DebounceFilter) (l m : List Bool) :
    x.advances (l ++ m) = (x.advances l).advances m := by
  simp [DebounceFilter.advances, List.foldl_append]

theorem DebounceFilter.advances_snoc (x : DebounceFilter) (l : List Bool) (b : Bool) :
    x.advances (l ++ [b]) = (x.advances l).advance b := by
  simp [DebounceFilter.advances]

/-! ### The bits of a window (R22, R101) -/

theorem shiftIn_zero (w : Byte) (b : Bool) : (shiftIn w b).getLsbD 0 = b := by
  simp only [shiftIn, BitVec.getLsbD_append, BitVec.getLsbD_ofBool]
  simp

theorem shiftIn_succ (w : Byte) (b : Bool) {k : Nat} (h : k < 7) :
    (shiftIn w b).getLsbD (k + 1) = w.getLsbD k := by
  simp only [shiftIn, BitVec.getLsbD_append, BitVec.getLsbD_extractLsb']
  simp [h]

/-- A window is unanimous at a level exactly when its eight bits are that level. -/
theorem window_eq_unanimous (w : Byte) (v : Bool) :
    w = unanimousWindow v ↔ ∀ k < 8, w.getLsbD k = v := by
  constructor
  · rintro rfl k hk
    cases v
    · simp [unanimousWindow]
    · revert k; decide
  · intro h
    apply BitVec.eq_of_getLsbD_eq
    intro i hi
    rw [h i hi]
    cases v
    · simp [unanimousWindow]
    · revert i; decide

/-- After advances, bit `k` of the window is the sample taken `k` advances ago, or what was `k` minus the number of advances places down before (R22). -/
theorem DebounceFilter.advances_window_bit (x : DebounceFilter) (l : List Bool) {k : Nat}
    (hk : k < 8) :
    (x.advances l).window.getLsbD k =
      l.reverse.getD k (x.window.getLsbD (k - l.length)) := by
  induction l using List.reverseRecOn generalizing k with
  | nil => simp
  | append_singleton l b ih =>
    rw [DebounceFilter.advances_snoc, DebounceFilter.advance_window]
    cases k with
    | zero => rw [shiftIn_zero]; simp
    | succ k =>
      rw [shiftIn_succ _ _ (by omega), ih (by omega)]
      simp

/-- The level after an evaluation: the unanimous level, else the old one (R101, R108). -/
theorem settledLevel_cases (w : Byte) (old : Bool) :
    (w = unanimousWindow true ∧ settledLevel w old = true) ∨
    (w = unanimousWindow false ∧ settledLevel w old = false) ∨
    (w ≠ unanimousWindow true ∧ w ≠ unanimousWindow false ∧ settledLevel w old = old) := by
  simp only [settledLevel, unanimousWindow]
  split_ifs with h1 h2 <;> simp_all

theorem settledLevel_unanimous (v old : Bool) : settledLevel (unanimousWindow v) old = v := by
  cases v <;> cases old <;> rfl

end Sys2Proof.Machine
end

