-- ==== Sys2Proof/Laws/Scheduler.lean ====
section
/-! SUPPORT. What Dispatch and the scan of SCH_TICK can do (spec/41_task_scheduler.md R142, R143). -/

namespace Sys2Proof.Machine

/-- `s` with another list of slots. -/
def State.withSlots (s : State) (l : List Slot) : State := { s with slots := l }

@[simp] theorem State.withSlots_slots (s : State) (l) : (s.withSlots l).slots = l := rfl
@[simp] theorem State.withSlots_tickCounter (s : State) (l) :
    (s.withSlots l).tickCounter = s.tickCounter := rfl
@[simp] theorem State.withSlots_withSlots (s : State) (l k) :
    (s.withSlots l).withSlots k = s.withSlots k := rfl
theorem State.withSlots_setSlot (s : State) (l) (i : Nat) (x : Slot) :
    (s.withSlots l).setSlot i x = s.withSlots (l.set i x) := rfl

/-! ### Dispatch (R143) -/

theorem State.dispatch_external {s : State} {h : Handle} (hh : s.nf ≤ h.toNat) :
    s.dispatch h = s.emit h := by
  simp [State.dispatch, State.isInternal, Nat.not_lt.2 hh]

theorem State.dispatch_internal {s : State} {h : Handle} (hh : h.toNat < s.nf) :
    s.dispatch h = (s.emit h).filterAdvance h := by
  simp [State.dispatch, State.isInternal, hh]

/-- Dispatch is one of two things: the strobe alone, or the strobe and a FilterAdvance. -/
theorem State.dispatch_cases (s : State) (h : Handle) :
    (s.nf ≤ h.toNat ∧ s.dispatch h = s.emit h) ∨
    (h.toNat < s.nf ∧ s.dispatch h = (s.emit h).filterAdvance h) := by
  rcases Nat.lt_or_ge h.toNat s.nf with hh | hh
  · exact .inr ⟨hh, State.dispatch_internal hh⟩
  · exact .inl ⟨hh, State.dispatch_external hh⟩

section
variable (s : State) (h : Handle)

@[simp] theorem State.dispatch_tickCounter : (s.dispatch h).tickCounter = s.tickCounter := by
  rcases s.dispatch_cases h with ⟨_, e⟩ | ⟨_, e⟩ <;> rw [e] <;> rfl
@[simp] theorem State.dispatch_count : (s.dispatch h).count = s.count := by
  rcases s.dispatch_cases h with ⟨_, e⟩ | ⟨_, e⟩ <;> rw [e] <;> rfl
@[simp] theorem State.dispatch_slots : (s.dispatch h).slots = s.slots := by
  rcases s.dispatch_cases h with ⟨_, e⟩ | ⟨_, e⟩ <;> rw [e] <;> rfl
@[simp] theorem State.dispatch_faultCode : (s.dispatch h).faultCode = s.faultCode := by
  rcases s.dispatch_cases h with ⟨_, e⟩ | ⟨_, e⟩ <;> rw [e] <;> rfl
@[simp] theorem State.dispatch_faultCmd : (s.dispatch h).faultCmd = s.faultCmd := by
  rcases s.dispatch_cases h with ⟨_, e⟩ | ⟨_, e⟩ <;> rw [e] <;> rfl
@[simp] theorem State.dispatch_res : (s.dispatch h).res = s.res := by
  rcases s.dispatch_cases h with ⟨_, e⟩ | ⟨_, e⟩ <;> rw [e] <;> rfl
@[simp] theorem State.dispatch_inputs : (s.dispatch h).inputs = s.inputs := by
  rcases s.dispatch_cases h with ⟨_, e⟩ | ⟨_, e⟩ <;> rw [e] <;> rfl
@[simp] theorem State.dispatch_trace : (s.dispatch h).trace = s.trace ++ [h] := by
  rcases s.dispatch_cases h with ⟨_, e⟩ | ⟨_, e⟩ <;> rw [e] <;> rfl
@[simp] theorem State.dispatch_nf : (s.dispatch h).nf = s.nf := by
  rcases s.dispatch_cases h with ⟨_, e⟩ | ⟨_, e⟩ <;> rw [e]
  · rfl
  · exact State.filterAdvance_nf _ _

/-- Dispatch reads and writes no slot, tick or input. -/
theorem State.dispatch_with_slots (l : List Slot) :
    (s.withSlots l).dispatch h = (s.dispatch h).withSlots l := by
  rcases s.dispatch_cases h with ⟨hh, e⟩ | ⟨hh, e⟩ <;> rw [e]
  · exact State.dispatch_external (s := s.withSlots l) hh
  · exact State.dispatch_internal (s := s.withSlots l) hh

theorem State.dispatch_filter_ne {g : Handle} (hg : g ≠ h) :
    (s.dispatch h).filter g = s.filter g := by
  rcases s.dispatch_cases h with ⟨_, e⟩ | ⟨_, e⟩ <;> rw [e]
  · rfl
  · exact State.filterAdvance_filter_ne (s.emit h) hg

theorem State.dispatch_filter_self (hh : h.toNat < s.nf) :
    (s.dispatch h).filter h = (s.filter h).advance (s.nextSample h) := by
  rw [State.dispatch_internal hh]
  exact State.filterAdvance_filter_self (s := s.emit h) hh

/-- Every filter after a dispatch: as before, or one advance later. -/
theorem State.dispatch_filter_cases (g : Handle) :
    (s.dispatch h).filter g = s.filter g ∨
    (g = h ∧ h.toNat < s.nf ∧ (s.dispatch h).filter g = (s.filter g).advance (s.nextSample g)) := by
  by_cases hg : g = h
  · subst hg
    rcases s.dispatch_cases g with ⟨_, e⟩ | ⟨hh, e⟩
    · exact .inl (by rw [e]; rfl)
    · exact .inr ⟨rfl, hh, s.dispatch_filter_self g hh⟩
  · exact .inl (s.dispatch_filter_ne h hg)

end

/-! ### A list of dispatches -/

section
variable (l : List Handle) (s : State)

@[simp] theorem State.dispatches_tickCounter :
    (l.foldl State.dispatch s).tickCounter = s.tickCounter := by
  induction l generalizing s <;> simp_all
@[simp] theorem State.dispatches_count : (l.foldl State.dispatch s).count = s.count := by
  induction l generalizing s <;> simp_all
@[simp] theorem State.dispatches_slots : (l.foldl State.dispatch s).slots = s.slots := by
  induction l generalizing s <;> simp_all
@[simp] theorem State.dispatches_faultCode :
    (l.foldl State.dispatch s).faultCode = s.faultCode := by
  induction l generalizing s <;> simp_all
@[simp] theorem State.dispatches_faultCmd : (l.foldl State.dispatch s).faultCmd = s.faultCmd := by
  induction l generalizing s <;> simp_all
@[simp] theorem State.dispatches_res : (l.foldl State.dispatch s).res = s.res := by
  induction l generalizing s <;> simp_all
@[simp] theorem State.dispatches_inputs : (l.foldl State.dispatch s).inputs = s.inputs := by
  induction l generalizing s <;> simp_all
@[simp] theorem State.dispatches_trace : (l.foldl State.dispatch s).trace = s.trace ++ l := by
  induction l generalizing s <;> simp_all
@[simp] theorem State.dispatches_nf : (l.foldl State.dispatch s).nf = s.nf := by
  induction l generalizing s <;> simp_all

theorem State.dispatches_with_slots (k : List Slot) :
    l.foldl State.dispatch (s.withSlots k) = (l.foldl State.dispatch s).withSlots k := by
  induction l generalizing s with
  | nil => rfl
  | cons h l ih => rw [List.foldl_cons, State.dispatch_with_slots, ih]; rfl

/-- A property that advances keep holds of every filter after the dispatches. -/
theorem State.dispatches_filter_induct {p : DebounceFilter → Prop} (f : Handle)
    (hp : ∀ x b, p x → p (x.advance b)) (h : p (s.filter f)) :
    p ((l.foldl State.dispatch s).filter f) := by
  induction l generalizing s with
  | nil => exact h
  | cons a l ih =>
    apply ih
    rcases s.dispatch_filter_cases a f with e | ⟨_, _, e⟩ <;> rw [e]
    · exact h
    · exact hp _ _ h

theorem State.dispatches_filter_notMem {f : Handle} (h : f ∉ l) :
    (l.foldl State.dispatch s).filter f = s.filter f := by
  induction l generalizing s with
  | nil => rfl
  | cons a l ih =>
    simp only [List.mem_cons, not_or] at h
    rw [List.foldl_cons, ih _ h.2, s.dispatch_filter_ne a h.1]

/-- One draw for each dispatch of an internal filter. -/
theorem State.dispatches_drawCount :
    (l.foldl State.dispatch s).drawCount =
      s.drawCount + (l.filter fun h => decide (h.toNat < s.nf)).length := by
  induction l generalizing s with
  | nil => rfl
  | cons a l ih =>
    rw [List.foldl_cons, ih, State.dispatch_nf]
    rcases s.dispatch_cases a with ⟨hh, e⟩ | ⟨hh, e⟩ <;> rw [e]
    · simp [Nat.not_lt.2 hh]
    · simp [hh]; omega

end

/-! ### The scan (R142) -/

theorem Slot.dueAt_iff (x : Slot) (t : Tick) : x.dueAt t = true ↔ t - x.nextDue = 0 := by
  simp [Slot.dueAt]

/-- `(tick_counter - next_due) mod 2^32 == 0` is equality (R9). -/
theorem Slot.dueAt_eq (x : Slot) (t : Tick) : x.dueAt t = decide (x.nextDue = t) := by
  rw [Bool.eq_iff_iff, Slot.dueAt_iff, decide_eq_true_iff, BitVec.sub_eq_iff_eq_add]
  simp [eq_comm]

/-- The slots after a scan of the first `n`. -/
def scannedSlots (l : List Slot) (t : Tick) (n : Nat) : List Slot :=
  l.mapIdx fun i x => if i < n ∧ x.nextDue = t then x.fired else x

/-- The targets of the due slots among the first `n`. -/
def dueAmong (l : List Slot) (t : Tick) (n : Nat) : List Handle :=
  ((l.take n).filter fun x => x.nextDue = t).map Slot.target

theorem scannedSlots_getElem? (l : List Slot) (t : Tick) (n i : Nat) :
    (scannedSlots l t n)[i]? =
      (l[i]?).map fun x => if i < n ∧ x.nextDue = t then x.fired else x := by
  simp [scannedSlots, List.getElem?_mapIdx]

theorem scannedSlots_zero (l : List Slot) (t : Tick) : scannedSlots l t 0 = l := by
  apply List.ext_getElem?
  intro i
  rw [scannedSlots_getElem?]
  cases l[i]? <;> simp

/-- The scan of the first `n` slots: dispatch the due ones in order, move each of them on. -/
theorem State.scan_eq (s : State) (n : Nat) :
    s.scan n =
      ((dueAmong s.slots s.tickCounter n).foldl State.dispatch s).withSlots
        (scannedSlots s.slots s.tickCounter n) := by
  induction n with
  | zero =>
    simp [State.scan, dueAmong, scannedSlots_zero]
    rfl
  | succ n ih =>
    rw [State.scan, ih, State.scanSlot]
    simp only [scannedSlots_getElem?, Nat.lt_irrefl, false_and, if_false,
      State.dispatches_tickCounter, State.withSlots_slots, State.withSlots_tickCounter]
    cases hx : s.slots[n]? with
    | none =>
      have hn : s.slots.length ≤ n := List.getElem?_eq_none_iff.1 hx
      have e1 : scannedSlots s.slots s.tickCounter (n + 1) = scannedSlots s.slots s.tickCounter n := by
        apply List.ext_getElem?
        intro i
        simp only [scannedSlots_getElem?]
        cases hi : s.slots[i]? with
        | none => rfl
        | some y =>
          have : i < s.slots.length := (List.getElem?_eq_some_iff.1 hi).1
          have h1 : i < n := by omega
          have h2 : i < n + 1 := by omega
          simp [h1, h2]
      have e2 : dueAmong s.slots s.tickCounter (n + 1) = dueAmong s.slots s.tickCounter n := by
        simp [dueAmong, List.take_of_length_le hn, List.take_of_length_le (Nat.le_succ_of_le hn)]
      simp [e1, e2]
    | some x =>
      have hn : n < s.slots.length := (List.getElem?_eq_some_iff.1 hx).1
      have et : s.slots.take (n + 1) = s.slots.take n ++ [x] := by
        rw [List.take_add_one, hx]; rfl
      by_cases hd : x.nextDue = s.tickCounter
      · have e1 : scannedSlots s.slots s.tickCounter (n + 1) =
            (scannedSlots s.slots s.tickCounter n).set n x.fired := by
          apply List.ext_getElem?
          intro i
          rw [List.getElem?_set, scannedSlots_getElem?, scannedSlots_getElem?]
          by_cases hi : n = i
          · subst hi
            have hl : n < (scannedSlots s.slots s.tickCounter n).length := by simp [scannedSlots, hn]
            simp [hx, hd, hl]
          · have : i < n + 1 ↔ i < n := by omega
            simp [hi, this]
        have e2 : dueAmong s.slots s.tickCounter (n + 1) =
            dueAmong s.slots s.tickCounter n ++ [x.target] := by
          simp [dueAmong, et, hd]
        simp only [Option.map_some, Slot.dueAt_eq, hd, decide_true, if_true, e1, e2,
          List.foldl_append, List.foldl_cons, List.foldl_nil, State.dispatch_with_slots,
          State.withSlots_setSlot]
      · have e1 : scannedSlots s.slots s.tickCounter (n + 1) =
            scannedSlots s.slots s.tickCounter n := by
          apply List.ext_getElem?
          intro i
          rw [scannedSlots_getElem?, scannedSlots_getElem?]
          by_cases hi : n = i
          · subst hi; simp [hx, hd]
          · have : i < n + 1 ↔ i < n := by omega
            simp [this]
        have e2 : dueAmong s.slots s.tickCounter (n + 1) = dueAmong s.slots s.tickCounter n := by
          simp [dueAmong, et, hd]
        simp [Slot.dueAt_eq, hd, e1, e2]

end Sys2Proof.Machine
end

