-- ==== Sys2Proof/Laws/Exec.lean ====
section
/-! SUPPORT. One lemma per command that says once everything it can do, and what all commands have in common. -/

namespace Sys2Proof.Machine

theorem next_inj {s t : State} (h : (.next s : Host.Outcome State Fault Refusal) = .next t) :
    s = t := by cases h; rfl

/-! ### What each command can do -/

theorem execFltInit_cases {f : Handle} {pol : Bool} {s t : State}
    (h : exec (.fltInit f pol) s = .next t) :
    (s.nf ≤ f.toNat ∧ t = s.raiseFault .badIndex (encode (.fltInit f pol))) ∨
    (f.toNat < s.nf ∧ t = (s.setFilter f (DebounceFilter.init pol)).answer false) := by
  simp only [exec, execFltInit] at h
  rcases State.withFilter_cases h with h | ⟨_, h, _⟩ | ⟨h1, _, h3⟩
  · exact .inl h
  · exact absurd h (by decide)
  · exact .inr ⟨h1, h3⟩

theorem execFltAdv_cases {f : Handle} {s t : State} (h : exec (.fltAdv f) s = .next t) :
    (s.nf ≤ f.toNat ∧ t = s.raiseFault .badIndex (encode (.fltAdv f))) ∨
    (f.toNat < s.nf ∧ (s.filter f).constructed = false ∧
      t = s.raiseFault .unconstructed (encode (.fltAdv f))) ∨
    (f.toNat < s.nf ∧ (s.filter f).constructed = true ∧
      t = (s.filterAdvance f).answer false) := by
  simp only [exec, execFltAdv] at h
  rcases State.withFilter_cases h with h | ⟨a, _, b, c⟩ | ⟨h1, h2, h3⟩
  · exact .inl h
  · exact .inr (.inl ⟨a, b, c⟩)
  · exact .inr (.inr ⟨h1, h2 rfl, h3⟩)

theorem execFltAct_cases {f : Handle} {s t : State} (h : exec (.fltAct f) s = .next t) :
    (s.nf ≤ f.toNat ∧ t = s.raiseFault .badIndex (encode (.fltAct f))) ∨
    (f.toNat < s.nf ∧ (s.filter f).constructed = false ∧
      t = s.raiseFault .unconstructed (encode (.fltAct f))) ∨
    (f.toNat < s.nf ∧ (s.filter f).constructed = true ∧
      t = s.answer ((s.filter f).state == (s.filter f).activeLevel)) := by
  simp only [exec, execFltAct] at h
  rcases State.withFilter_cases h with h | ⟨a, _, b, c⟩ | ⟨h1, h2, h3⟩
  · exact .inl h
  · exact .inr (.inl ⟨a, b, c⟩)
  · exact .inr (.inr ⟨h1, h2 rfl, h3⟩)

theorem execFltCrise_cases {f : Handle} {s t : State} (h : exec (.fltCrise f) s = .next t) :
    (s.nf ≤ f.toNat ∧ t = s.raiseFault .badIndex (encode (.fltCrise f))) ∨
    (f.toNat < s.nf ∧ (s.filter f).constructed = false ∧
      t = s.raiseFault .unconstructed (encode (.fltCrise f))) ∨
    (f.toNat < s.nf ∧ (s.filter f).constructed = true ∧
      t = (s.setFilter f { s.filter f with rise := false }).answer (s.filter f).rise) := by
  simp only [exec, execFltCrise] at h
  rcases State.withFilter_cases h with h | ⟨a, _, b, c⟩ | ⟨h1, h2, h3⟩
  · exact .inl h
  · exact .inr (.inl ⟨a, b, c⟩)
  · exact .inr (.inr ⟨h1, h2 rfl, h3⟩)

theorem execFltCfall_cases {f : Handle} {s t : State} (h : exec (.fltCfall f) s = .next t) :
    (s.nf ≤ f.toNat ∧ t = s.raiseFault .badIndex (encode (.fltCfall f))) ∨
    (f.toNat < s.nf ∧ (s.filter f).constructed = false ∧
      t = s.raiseFault .unconstructed (encode (.fltCfall f))) ∨
    (f.toNat < s.nf ∧ (s.filter f).constructed = true ∧
      t = (s.setFilter f { s.filter f with fall := false }).answer (s.filter f).fall) := by
  simp only [exec, execFltCfall] at h
  rcases State.withFilter_cases h with h | ⟨a, _, b, c⟩ | ⟨h1, h2, h3⟩
  · exact .inl h
  · exact .inr (.inl ⟨a, b, c⟩)
  · exact .inr (.inr ⟨h1, h2 rfl, h3⟩)

theorem checkTarget_none_iff (s : State) (h : Handle) :
    s.checkTarget h = none ↔ (h.toNat < s.nf → (s.filter h).constructed = true) := by
  simp only [State.checkTarget, State.isInternal]
  by_cases h1 : h.toNat < s.nf <;> cases (s.filter h).constructed <;> simp [h1]

theorem checkTarget_some_iff (s : State) (h : Handle) (c : FaultCause) :
    s.checkTarget h = some c ↔
      c = .unconstructed ∧ h.toNat < s.nf ∧ (s.filter h).constructed = false := by
  simp only [State.checkTarget, State.isInternal]
  by_cases h1 : h.toNat < s.nf <;> cases (s.filter h).constructed <;> simp [h1, eq_comm]

theorem execSchReg_cases {h : Handle} {P : Tick} {s t : State}
    (e : exec (.schReg h P) s = .next t) :
    (h.toNat < s.nf ∧ (s.filter h).constructed = false ∧
      t = s.raiseFault .unconstructed (encode (.schReg h P))) ∨
    ((h.toNat < s.nf → (s.filter h).constructed = true) ∧ s.count = s.cap ∧
      t = s.answer false) ∨
    ((h.toNat < s.nf → (s.filter h).constructed = true) ∧ s.count ≠ s.cap ∧
      t = (s.addSlot { target := h, period := P, nextDue := P }).answer true) := by
  simp only [exec, execSchReg] at e
  split at e
  · rename_i c hc
    obtain ⟨rfl, h1, h2⟩ := (checkTarget_some_iff s h c).1 hc
    exact .inl ⟨h1, h2, (next_inj e).symm⟩
  · rename_i hc
    have hc := (checkTarget_none_iff s h).1 hc
    split at e
    · rename_i hf
      exact .inr (.inl ⟨hc, hf, (next_inj e).symm⟩)
    · rename_i hf
      exact .inr (.inr ⟨hc, hf, (next_inj e).symm⟩)

/-- The state SCH_TICK leaves, in closed form. -/
def State.afterTick (s : State) : State :=
  ((s.dueTargets.foldl State.dispatch (s.answer false)).withSlots
    (scannedSlots s.slots s.tickCounter s.count)).countTick

theorem execSchTick_eq (s : State) : exec .schTick s = .next s.afterTick := by
  simp only [exec, execSchTick, State.scan_eq]
  rfl

section
variable (s : State)

@[simp] theorem State.afterTick_tickCounter : s.afterTick.tickCounter = s.tickCounter + 1 := by
  simp [State.afterTick]
@[simp] theorem State.afterTick_count : s.afterTick.count = s.count := by
  simp [State.afterTick, State.withSlots]
@[simp] theorem State.afterTick_slots :
    s.afterTick.slots = scannedSlots s.slots s.tickCounter s.count := by
  simp [State.afterTick]
@[simp] theorem State.afterTick_faultCode : s.afterTick.faultCode = s.faultCode := by
  simp [State.afterTick, State.withSlots]
@[simp] theorem State.afterTick_faultCmd : s.afterTick.faultCmd = s.faultCmd := by
  simp [State.afterTick, State.withSlots]
@[simp] theorem State.afterTick_res : s.afterTick.res = false := by
  simp [State.afterTick, State.withSlots]
@[simp] theorem State.afterTick_trace : s.afterTick.trace = s.dueTargets := by
  simp [State.afterTick, State.withSlots]
@[simp] theorem State.afterTick_inputs : s.afterTick.inputs = s.inputs := by
  simp [State.afterTick, State.withSlots]
@[simp] theorem State.afterTick_nf : s.afterTick.nf = s.nf :=
  State.dispatches_nf s.dueTargets (s.answer false)
@[simp] theorem State.afterTick_cap : s.afterTick.cap = s.cap := by
  simp [State.cap, scannedSlots]
theorem State.afterTick_filter (f : Handle) :
    s.afterTick.filter f = (s.dueTargets.foldl State.dispatch (s.answer false)).filter f := rfl

end

/-! ### Commands and what is lined up behind them (R57) -/

/-- `s` with other inputs lined up. -/
def State.withInputs (s : State) (l : List Input) : State := { s with inputs := l }

theorem State.withInputs_self (s : State) : s.withInputs s.inputs = s := rfl

theorem State.dispatch_withInputs (s : State) (h : Handle) (l : List Input) :
    (s.withInputs l).dispatch h = (s.dispatch h).withInputs l := by
  rcases s.dispatch_cases h with ⟨hh, e⟩ | ⟨hh, e⟩ <;> rw [e]
  · exact State.dispatch_external (s := s.withInputs l) hh
  · exact State.dispatch_internal (s := s.withInputs l) hh

theorem State.dispatches_withInputs (k : List Handle) (s : State) (l : List Input) :
    k.foldl State.dispatch (s.withInputs l) = (k.foldl State.dispatch s).withInputs l := by
  induction k generalizing s with
  | nil => rfl
  | cons h k ih => rw [List.foldl_cons, State.dispatch_withInputs, ih]; rfl

theorem State.afterTick_withInputs (s : State) (l : List Input) :
    (s.withInputs l).afterTick = s.afterTick.withInputs l := by
  simp only [State.afterTick]
  rw [show (s.withInputs l).answer false = (s.answer false).withInputs l from rfl,
    show (s.withInputs l).dueTargets = s.dueTargets from rfl, State.dispatches_withInputs]
  rfl

theorem State.withFilter_withInputs {s t : State} {f : Handle} {n : Bool} {i : Instr}
    {effect effect' : DebounceFilter → State} (l : List Input)
    (he : ∀ x, effect' x = (effect x).withInputs l)
    (h : s.withFilter f n i effect = .next t) :
    (s.withInputs l).withFilter f n i effect' = .next (t.withInputs l) := by
  simp only [State.withFilter] at *
  rw [show (s.withInputs l).checkFilter f n = s.checkFilter f n from rfl]
  split at h
  · cases h; rfl
  · cases h; exact congrArg _ (he _)

/-- A command neither reads nor writes what is lined up behind it. -/
theorem exec_withInputs {i : Instr} {s t : State} (h : exec i s = .next t) (l : List Input) :
    exec i (s.withInputs l) = .next (t.withInputs l) := by
  cases i with
  | fltInit f pol =>
    simp only [exec, execFltInit] at h ⊢
    exact State.withFilter_withInputs l (fun _ => rfl) h
  | fltAdv f =>
    simp only [exec, execFltAdv] at h ⊢
    exact State.withFilter_withInputs l (fun _ => rfl) h
  | fltAct f =>
    simp only [exec, execFltAct] at h ⊢
    exact State.withFilter_withInputs l (fun _ => rfl) h
  | fltCrise f =>
    simp only [exec, execFltCrise] at h ⊢
    exact State.withFilter_withInputs l (fun _ => rfl) h
  | fltCfall f =>
    simp only [exec, execFltCfall] at h ⊢
    exact State.withFilter_withInputs l (fun _ => rfl) h
  | schInst => cases h; rfl
  | schReg g P =>
    simp only [exec, execSchReg] at *
    rw [show (s.withInputs l).checkTarget g = s.checkTarget g from rfl,
      show (s.withInputs l).count = s.count from rfl, show (s.withInputs l).cap = s.cap from rfl]
    split at h
    · cases h; rfl
    · split at h <;> cases h
      · rw [if_pos ‹_›]; rfl
      · rw [if_neg ‹_›]; rfl
  | schTick =>
    rw [execSchTick_eq] at *
    cases h
    rw [State.afterTick_withInputs]

/-! ### What all commands have in common -/

/-- The effects a command can have on a running block, over all commands. -/
theorem exec_cases {i : Instr} {s t : State} (h : exec i s = .next t) :
    (∃ c : FaultCause, s.failedCheck i = c.code ∧ t = s.raiseFault c (encode i)) ∨
    (s.failedCheck i = 0 ∧
      ((∃ r, t = s.answer r ∧
          ((∃ f, i = .fltAct f) ∨ i = .schInst ∨ (∃ g P, i = .schReg g P ∧ s.count = s.cap))) ∨
        (∃ f x r, f.toNat < s.nf ∧ t = (s.setFilter f x).answer r ∧
          ((∃ pol, i = .fltInit f pol ∧ x = DebounceFilter.init pol) ∨
            (i = .fltCrise f ∧ x = { s.filter f with rise := false }) ∨
            (i = .fltCfall f ∧ x = { s.filter f with fall := false }))) ∨
        (∃ f, i = .fltAdv f ∧ f.toNat < s.nf ∧ t = (s.filterAdvance f).answer false) ∨
        (∃ g P, i = .schReg g P ∧ s.count ≠ s.cap ∧
          (g.toNat < s.nf → (s.filter g).constructed = true) ∧
          t = (s.addSlot { target := g, period := P, nextDue := P }).answer true) ∨
        (i = .schTick ∧ t = s.afterTick))) := by
  cases i with
  | fltInit f pol =>
    rcases execFltInit_cases h with ⟨h1, rfl⟩ | ⟨h1, rfl⟩
    · exact .inl ⟨.badIndex, by simp [State.failedCheck, h1, FaultCause.code], rfl⟩
    · exact .inr ⟨by simp [State.failedCheck, Nat.not_le.2 h1],
        .inr (.inl ⟨f, _, _, h1, rfl, .inl ⟨pol, rfl, rfl⟩⟩)⟩
  | fltAdv f =>
    rcases execFltAdv_cases h with ⟨h1, rfl⟩ | ⟨h1, h2, rfl⟩ | ⟨h1, h2, rfl⟩
    · exact .inl ⟨.badIndex, by simp [State.failedCheck, h1, FaultCause.code], rfl⟩
    · exact .inl ⟨.unconstructed,
        by simp [State.failedCheck, Nat.not_le.2 h1, h2, FaultCause.code], rfl⟩
    · exact .inr ⟨by simp [State.failedCheck, Nat.not_le.2 h1, h2],
        .inr (.inr (.inl ⟨f, rfl, h1, rfl⟩))⟩
  | fltAct f =>
    rcases execFltAct_cases h with ⟨h1, rfl⟩ | ⟨h1, h2, rfl⟩ | ⟨h1, h2, rfl⟩
    · exact .inl ⟨.badIndex, by simp [State.failedCheck, h1, FaultCause.code], rfl⟩
    · exact .inl ⟨.unconstructed,
        by simp [State.failedCheck, Nat.not_le.2 h1, h2, FaultCause.code], rfl⟩
    · exact .inr ⟨by simp [State.failedCheck, Nat.not_le.2 h1, h2],
        .inl ⟨_, rfl, .inl ⟨f, rfl⟩⟩⟩
  | fltCrise f =>
    rcases execFltCrise_cases h with ⟨h1, rfl⟩ | ⟨h1, h2, rfl⟩ | ⟨h1, h2, rfl⟩
    · exact .inl ⟨.badIndex, by simp [State.failedCheck, h1, FaultCause.code], rfl⟩
    · exact .inl ⟨.unconstructed,
        by simp [State.failedCheck, Nat.not_le.2 h1, h2, FaultCause.code], rfl⟩
    · exact .inr ⟨by simp [State.failedCheck, Nat.not_le.2 h1, h2],
        .inr (.inl ⟨f, _, _, h1, rfl, .inr (.inl ⟨rfl, rfl⟩)⟩)⟩
  | fltCfall f =>
    rcases execFltCfall_cases h with ⟨h1, rfl⟩ | ⟨h1, h2, rfl⟩ | ⟨h1, h2, rfl⟩
    · exact .inl ⟨.badIndex, by simp [State.failedCheck, h1, FaultCause.code], rfl⟩
    · exact .inl ⟨.unconstructed,
        by simp [State.failedCheck, Nat.not_le.2 h1, h2, FaultCause.code], rfl⟩
    · exact .inr ⟨by simp [State.failedCheck, Nat.not_le.2 h1, h2],
        .inr (.inl ⟨f, _, _, h1, rfl, .inr (.inr ⟨rfl, rfl⟩)⟩)⟩
  | schInst => exact .inr ⟨rfl, .inl ⟨false, (next_inj h).symm, .inr (.inl rfl)⟩⟩
  | schReg g P =>
    rcases execSchReg_cases h with ⟨h1, h2, rfl⟩ | ⟨h1, h2, rfl⟩ | ⟨h1, h2, rfl⟩
    · exact .inl ⟨.unconstructed, by simp [State.failedCheck, h1, h2, FaultCause.code], rfl⟩
    · refine .inr ⟨?_, .inl ⟨_, rfl, .inr (.inr ⟨g, P, rfl, h2⟩)⟩⟩
      simp only [State.failedCheck]
      split
      · rename_i h3
        rw [h1 h3.1] at h3
        exact absurd h3.2 (by decide)
      · rfl
    · refine .inr ⟨?_, .inr (.inr (.inr (.inl ⟨g, P, rfl, h2, h1, rfl⟩)))⟩
      simp only [State.failedCheck]
      split
      · rename_i h3
        rw [h1 h3.1] at h3
        exact absurd h3.2 (by decide)
      · rfl
  | schTick =>
    rw [execSchTick_eq] at h
    exact .inr ⟨rfl, .inr (.inr (.inr (.inr ⟨rfl, (next_inj h).symm⟩)))⟩

end Sys2Proof.Machine
end

