-- ==== Sys2Proof/Laws/PerInstr.lean ====
section
/-! SUPPORT. What holds of every command as syntax, one lemma per constructor: its operands are in the assembler's ranges (spec/30_encoding.md R79) and its word carries its opcode in `op` and 0 in `rsv` (R71, R73). -/

namespace Sys2Proof.Laws.Encoding

/-- The opcode of a command (R73). -/
def opcode : Instr → BitVec 8
  | .fltInit _ _ => 0x01
  | .fltAdv _ => 0x02
  | .fltAct _ => 0x03
  | .fltCrise _ => 0x04
  | .fltCfall _ => 0x05
  | .schInst => 0x10
  | .schReg _ _ => 0x11
  | .schTick => 0x12

/-- What is claimed of each command. -/
def Statement (i : Instr) : Prop :=
  i.WellFormed ∧ opField (encode i) = opcode i ∧ rsvField (encode i) = 0

theorem fltInit (f : Handle) (pol : Bool) : Statement (.fltInit f pol) := by
  refine ⟨?_, by simp [encode, packWord_eq, opcode], by simp [encode, packWord_eq]⟩
  simp only [Instr.WellFormed, Instr.asmLine, AsmLine.wellFormed, Bool.and_eq_true, decide_eq_true_eq]
  exact ⟨f.isLt, Bool.toNat_lt pol⟩

theorem fltAdv (f : Handle) : Statement (.fltAdv f) :=
  ⟨decide_eq_true f.isLt, by simp [encode, packWord_eq, opcode], by simp [encode, packWord_eq]⟩

theorem fltAct (f : Handle) : Statement (.fltAct f) :=
  ⟨decide_eq_true f.isLt, by simp [encode, packWord_eq, opcode], by simp [encode, packWord_eq]⟩

theorem fltCrise (f : Handle) : Statement (.fltCrise f) :=
  ⟨decide_eq_true f.isLt, by simp [encode, packWord_eq, opcode], by simp [encode, packWord_eq]⟩

theorem fltCfall (f : Handle) : Statement (.fltCfall f) :=
  ⟨decide_eq_true f.isLt, by simp [encode, packWord_eq, opcode], by simp [encode, packWord_eq]⟩

theorem schInst : Statement .schInst := ⟨rfl, by decide, by decide⟩

theorem schReg (h : Handle) (P : Tick) : Statement (.schReg h P) := by
  refine ⟨?_, by simp [encode, packWord_eq, opcode], by simp [encode, packWord_eq]⟩
  simp only [Instr.WellFormed, Instr.asmLine, AsmLine.wellFormed, Bool.and_eq_true, decide_eq_true_eq]
  exact ⟨h.isLt, P.isLt⟩

theorem schTick : Statement .schTick := ⟨rfl, by decide, by decide⟩

end Sys2Proof.Laws.Encoding
end

