-- ==== Sys2Proof/Laws/Step.lean ====
section
/-! SUPPORT. Everything one step can do (spec/20_memory.md R57, spec/60_exceptions.md R181). -/

namespace Sys2Proof.Machine

theorem State.halted_iff (s : State) : s.halted = true ↔ s.faultCode ≠ 0 := by
  simp [State.halted]

theorem State.halted_eq_false (s : State) : s.halted = false ↔ s.faultCode = 0 := by
  simp [State.halted]

/-- What the block does with a command word (R181). -/
theorem State.acceptWord_cases (s : State) (w : Word) :
    (s.faultCode ≠ 0 ∧ s.acceptWord w = .done s.ignoreCommand) ∨
    (s.faultCode = 0 ∧ (∃ e, decode w = .error e) ∧
      s.acceptWord w = .done (s.raiseFault .illegalCmd w)) ∨
    (s.faultCode = 0 ∧ ∃ i, decode w = .ok i ∧ s.acceptWord w = .run i s) := by
  by_cases hf : s.faultCode = 0
  · have hh := s.halted_eq_false.2 hf
    cases hd : decode w with
    | error e => exact .inr (.inl ⟨hf, ⟨e, rfl⟩, by simp [State.acceptWord, hh, hd]⟩)
    | ok i => exact .inr (.inr ⟨hf, i, rfl, by simp [State.acceptWord, hh, hd]⟩)
  · exact .inl ⟨hf, by simp [State.acceptWord, s.halted_iff.2 hf]⟩

/-- The word an input presents, if it presents one (R52). -/
def Input.word? : Input → Option Word
  | .command _ w => some w
  | .transfer _ bytes => wordOfBytes Config.hostByteOrder bytes
  | .reset => none

theorem State.accept_nil {s : State} (h : s.inputs = []) : s.accept = .done s := by
  simp [State.accept, h]

theorem State.accept_reset {s : State} {rest : List Input} (h : s.inputs = .reset :: rest) :
    s.accept = .done s.popInput.applyReset := by
  simp [State.accept, h]

theorem State.accept_word {s : State} {x : Input} {rest : List Input} {w : Word}
    (h : s.inputs = x :: rest) (hw : x.word? = some w) : s.accept = s.popInput.acceptWord w := by
  cases x with
  | command a v => simp only [Input.word?, Option.some.injEq] at hw; simp [State.accept, h, hw]
  | transfer a bytes => simp only [Input.word?] at hw; simp [State.accept, h, hw]
  | reset => simp [Input.word?] at hw

/-- Everything a step can do: hold the state, drop a transfer that is no word, reset, ignore, fault on an illegal word, or execute a command. -/
theorem step_cases {s t : State} (h : step s = .next t) :
    (s.inputs = [] ∧ t = s) ∨
    (∃ x rest, s.inputs = x :: rest ∧ x ≠ .reset ∧ x.word? = none ∧ t = s.popInput) ∨
    (∃ rest, s.inputs = .reset :: rest ∧ t = s.popInput.applyReset) ∨
    (∃ x rest w, s.inputs = x :: rest ∧ x.word? = some w ∧
      ((s.faultCode ≠ 0 ∧ t = s.popInput.ignoreCommand) ∨
        (s.faultCode = 0 ∧ (∃ e, decode w = .error e) ∧ t = s.popInput.raiseFault .illegalCmd w) ∨
        (s.faultCode = 0 ∧ ∃ i, decode w = .ok i ∧ exec i s.popInput = .next t))) := by
  cases hi : s.inputs with
  | nil =>
    simp only [step, State.accept_nil hi] at h
    exact .inl ⟨rfl, (next_inj h).symm⟩
  | cons x rest =>
    cases hw : x.word? with
    | none =>
      by_cases hx : x = .reset
      · subst hx
        simp only [step, State.accept_reset hi] at h
        exact .inr (.inr (.inl ⟨rest, rfl, (next_inj h).symm⟩))
      · cases x with
        | command a w => simp [Input.word?] at hw
        | reset => exact absurd rfl hx
        | transfer a bytes =>
          simp only [Input.word?] at hw
          simp only [step, State.accept, hi, hw] at h
          exact .inr (.inl ⟨_, rest, rfl, hx, hw, (next_inj h).symm⟩)
    | some w =>
      refine .inr (.inr (.inr ⟨x, rest, w, rfl, hw, ?_⟩))
      simp only [step, State.accept_word hi hw] at h
      rcases s.popInput.acceptWord_cases w with ⟨hf, e⟩ | ⟨hf, he, e⟩ | ⟨hf, i, hd, e⟩
      · rw [e] at h; exact .inl ⟨hf, (next_inj h).symm⟩
      · rw [e] at h; exact .inr (.inl ⟨hf, he, (next_inj h).symm⟩)
      · rw [e] at h; exact .inr (.inr ⟨hf, i, hd, h⟩)

end Sys2Proof.Machine
end

