-- ==== Sys2Proof/Tests/Slice0.lean ====
section
/-! SUPPORT. The model's own tests: ill-formed lines refused, words read and written as spec/30_encoding.md R73 and spec/95_test_vectors.md give them, one step of each command on the vectors of 95 (NF = 2, CAP = 8 unless said), and a named witness for the hypotheses of every obligation that has some. -/

namespace Sys2Proof.Tests

open Sys2Proof.Machine

/-! ### Small states -/

/-- A constructed filter, written as 95 writes one: active level, window, level, latches. -/
def flt (al : Bool) (w : Byte) (st rise fall : Bool) : DebounceFilter :=
  { constructed := true, activeLevel := al, window := w, state := st, prevState := st,
    rise := rise, fall := fall }

/-- NF = 2, CAP = 8: filter 0 is `x`, filter 1 is unconstructed, and the environment draws `raws`. -/
def withFlt (x : DebounceFilter) (raws : List Bool) : State :=
  { State.resetWith 2 8 with filters := [x, DebounceFilter.reset], rawDraws := raws }

/-- NF = 2 unconstructed filters, CAP = the number of slots, all in use, at counter `tick`. -/
def withSlots (tick : Tick) (slots : List Slot) : State :=
  { State.resetWith 2 0 with tickCounter := tick, slots := slots, count := slots.length }

/-- NF = 2, CAP = `cap`, empty registry, at counter `tick`. -/
def atTick (tick : Tick) (cap : Nat) : State :=
  { State.resetWith 2 cap with tickCounter := tick }

/-- A state that is presented a word by the host, with nothing behind it. -/
def given (w : Word) (s : State) : State := s.present .host w

/-- The next state of an outcome, if it is one. -/
def nextOf : Host.Outcome State Fault Refusal → Option State
  | .next t => some t
  | .fault _ | .refused _ => none

/-- The next state of a command satisfies a test. -/
def after (i : Instr) (s : State) (p : State → Bool) : Bool :=
  match exec i s with
  | .next t => p t
  | .fault _ | .refused _ => false

/-- The next state of a step satisfies a test. -/
def afterStep (s : State) (p : State → Bool) : Bool :=
  match step s with
  | .next t => p t
  | .fault _ | .refused _ => false

/-! ### Well-formedness (R79): one ill-formed line for each check, and the edges of the ranges -/

theorem test_wf_init_index : (AsmLine.fltInit 256 0).wellFormed = false := by decide
theorem test_wf_init_pol : (AsmLine.fltInit 0 2).wellFormed = false := by decide
theorem test_wf_adv : (AsmLine.fltAdv 256).wellFormed = false := by decide
theorem test_wf_act : (AsmLine.fltAct 256).wellFormed = false := by decide
theorem test_wf_crise : (AsmLine.fltCrise 256).wellFormed = false := by decide
theorem test_wf_cfall : (AsmLine.fltCfall 256).wellFormed = false := by decide
theorem test_wf_reg_handle : (AsmLine.schReg 256 1).wellFormed = false := by decide
theorem test_wf_reg_period : (AsmLine.schReg 1 0x100000000).wellFormed = false := by decide
theorem test_wf_init_ah : (AsmLine.fltInitAh 256).wellFormed = false := by decide
theorem test_wf_init_al : (AsmLine.fltInitAl 256).wellFormed = false := by decide
theorem test_wf_advn : (AsmLine.fltAdvn 256 0).wellFormed = false := by decide
theorem test_wf_edges : (AsmLine.fltInit 255 1).wellFormed = true ∧
    (AsmLine.schReg 255 0xFFFFFFFF).wellFormed = true ∧
    (AsmLine.schTickn 0).wellFormed = true ∧ (AsmLine.fltAdvn 255 0).wellFormed = true := by decide

/-! ### Decode: the bit patterns of R73 written out, and the words of 95 2.1 -/

theorem test_decode_init : decode
    0b0000000000000000000000000000000100000000000000000000000100000001#64 = .ok (.fltInit 1 true) := by
  decide
theorem test_decode_adv : decode
    0b0000000000000000000000000000000000000000000000001000000000000010#64 = .ok (.fltAdv 0x80) := by
  decide
theorem test_decode_act : decode
    0b0000000000000000000000000000000000000000000000000000010100000011#64 = .ok (.fltAct 5) := by
  decide
theorem test_decode_crise : decode
    0b0000000000000000000000000000000000000000000000000000001000000100#64 = .ok (.fltCrise 2) := by
  decide
theorem test_decode_cfall : decode
    0b0000000000000000000000000000000000000000000000000000000100000101#64 = .ok (.fltCfall 1) := by
  decide
theorem test_decode_inst : decode
    0b0000000000000000000000000000000000000000000000000000000000010000#64 = .ok .schInst := by
  decide
theorem test_decode_reg : decode
    0b1000000000000000000000000000011000000000000000001000000100010001#64
      = .ok (.schReg 0x81 0x80000006) := by decide
theorem test_decode_tick : decode
    0b0000000000000000000000000000000000000000000000000000000000010010#64 = .ok .schTick := by
  decide
theorem test_decode_all_ones_operands : decode 0xFFFFFFFF0000FF11#64 = .ok (.schReg 0xFF 0xFFFFFFFF) := by
  decide
theorem test_illegal_zero : decode 0x0000000000000000#64 = .error .unknownOpcode := by decide
theorem test_illegal_ops : decode 0x0000000000000006#64 = .error .unknownOpcode ∧
    decode 0x000000000000000F#64 = .error .unknownOpcode ∧
    decode 0x0000000000000013#64 = .error .unknownOpcode ∧
    decode 0x00000000000000FF#64 = .error .unknownOpcode := by decide
theorem test_illegal_pol : decode 0x0000000200000001#64 = .error .unusedOperandSet := by decide
theorem test_illegal_rsv : decode 0x0000000000010002#64 = .error .reservedBitsSet ∧
    decode 0x0000000080000011#64 = .error .reservedBitsSet := by decide
theorem test_illegal_imm : decode 0x0000000100000503#64 = .error .unusedOperandSet ∧
    decode 0x8000000000000012#64 = .error .unusedOperandSet := by decide
theorem test_illegal_idx : decode 0x0000000000000112#64 = .error .unusedOperandSet ∧
    decode 0x0000000000008010#64 = .error .unusedOperandSet := by decide

/-! ### Encode, the table word and the bus (R51, R52, R73) -/

theorem test_encode_reg : encode (.schReg 0x81 6) = 0x0000000600008111#64 := by decide
theorem test_encode_init : encode (.fltInit 2 true) = 0x0000000100000201#64 := by decide
theorem test_table_word : decodeTableWord 64 0x0000000400008011 = some (.schReg 0x80 4) := by decide
theorem test_table_word_short : decodeTableWord 8 0xFF12 = some .schTick := by decide
theorem test_fetch_word : after .schTick State.reset (fun t =>
    afterStep (State.reset.withFetchWord 64 0x12) (fun u => decide (u = t))) = true := by decide
theorem test_bytes_little : wordOfBytes .little [0x11, 0x81, 0, 0, 6, 0, 0, 0] =
    some 0x0000000600008111#64 := by decide
theorem test_bytes_big : wordOfBytes .big [0, 0, 0, 6, 0, 0, 0x81, 0x11] =
    some 0x0000000600008111#64 := by decide
theorem test_bytes_partial : wordOfBytes .little [0x12, 0, 0, 0, 0, 0, 0] = none ∧
    wordOfBytes .big [0, 0, 0, 0, 0, 0, 0, 0, 0x12] = none := by decide

/-! ### The assembler (R79, R80; the words beside the lines of 95 P1 to P5) -/

theorem test_asm_reg : assembleText "sch.reg 0x81, 6    ; res 1" = .ok [0x0000000600008111#64] := by
  decide
theorem test_asm_init : assembleText "flt.init 0, 1" = .ok [0x0000000100000001#64] := by decide
theorem test_asm_tickn : assembleText "sch.tickn 2" = .ok [0x12#64, 0x12#64] := by decide
theorem test_asm_tickn_zero : assembleText "sch.tickn 0" = .ok [] := by decide
theorem test_asm_range : assembleText "flt.adv 256" = .error .outOfRange := by decide
theorem test_asm_unknown : assembleText "flt.nop" = .error .unknownMnemonic := by decide
theorem test_asm_operands : assembleText "flt.init 0" = .error .badOperands := by decide
theorem test_asm_comment : assembleText "; raw[0]=1" = .ok [] := by decide
theorem test_asm_program : (assembleProgram ["flt.init.al 0", "flt.advn 0, 1 ; raw[0]=0", "flt.act 1"]) =
    .ok [0x0000000000000001#64, 0x0000000000000002#64, 0x0000000000000103#64] := by decide

/-! ### One step of each command (95 2.2 to 2.9) -/

theorem test_init_high : after (.fltInit 0 true) (State.resetWith 2 8) (fun t =>
    decide (t.filter 0 = flt true 0x00 false false false) && !t.res) = true := by decide
theorem test_init_low_again : after (.fltInit 0 false) (withFlt (flt true 0xFF true true false) [])
    (fun t => decide (t.filter 0 = flt false 0xFF true false false)) = true := by decide
theorem test_adv_rise : after (.fltAdv 0) (withFlt (flt true 0x7F false false false) [true])
    (fun t => decide (t.filter 0 = flt true 0xFF true true false)) = true := by decide
theorem test_adv_fall_keeps_rise : after (.fltAdv 0) (withFlt (flt true 0x80 true true false) [false])
    (fun t => decide (t.filter 0 = flt true 0x00 false true true)) = true := by decide
theorem test_act_low_pressed : after (.fltAct 0) (withFlt (flt false 0x00 false false true) [])
    (fun t => t.res) = true := by decide
theorem test_act_high_released : after (.fltAct 0) (withFlt (flt true 0x00 false false true) [])
    (fun t => !t.res) = true := by decide
theorem test_crise : after (.fltCrise 0) (withFlt (flt true 0xFF true true true) [])
    (fun t => t.res && decide (t.filter 0 = flt true 0xFF true false true)) = true := by decide
theorem test_cfall : after (.fltCfall 0) (withFlt (flt true 0xFF true false true) [])
    (fun t => t.res && decide (t.filter 0 = flt true 0xFF true false false)) = true := by decide
theorem test_inst : after .schInst (atTick 7 8) (fun t => decide (t = atTick 7 8)) = true := by decide
theorem test_reg_late : after (.schReg 0x80 4) (atTick 10 8) (fun t =>
    t.res && decide (t.slots[0]? = some ⟨0x80, 4, 4⟩) && t.count == 1) = true := by decide
theorem test_reg_unconstructed_before_full : after (.schReg 1 4) (withSlots 0 [⟨0x80, 1, 1⟩]) (fun t =>
    t.faultCode == 3 && t.faultCmd == 0x0000000400000111#64 && !t.res && t.count == 1) = true := by
  decide
theorem test_tick_order : after .schTick (withSlots 12 [⟨0x81, 6, 12⟩, ⟨0x80, 4, 12⟩]) (fun t =>
    decide (t.trace = [0x81, 0x80]) && decide (t.slots = [⟨0x81, 6, 18⟩, ⟨0x80, 4, 16⟩]) &&
      t.tickCounter == 13) = true := by decide
theorem test_tick_wrap : after .schTick (withSlots 0xFFFFFFFE [⟨0x80, 3, 0xFFFFFFFE⟩]) (fun t =>
    decide (t.trace = [0x80]) && decide (t.slots = [⟨0x80, 3, 1⟩]) &&
      t.tickCounter == 0xFFFFFFFF) = true := by decide
theorem test_tick_duplicate_internal : after .schTick
    { withFlt (flt true 0x00 false false false) [true, true] with
      tickCounter := 1, slots := [⟨0, 1, 1⟩, ⟨0, 1, 1⟩], count := 2 } (fun t =>
    decide (t.trace = [0, 0]) && (t.filter 0).window == 0x03 && decide (t.rawDraws = [])) = true := by
  decide
theorem test_fault_illegal : afterStep (given 0x0000000000000006#64 (atTick 5 8)) (fun t =>
    decide (t = { atTick 5 8 with faultCode := 1, faultCmd := 6 })) = true := by decide
theorem test_fault_bad_index : afterStep (given 0x0000000000000503#64 State.reset) (fun t =>
    t.faultCode == 2 && t.faultCmd == 0x503#64) = true := by decide
theorem test_halted_tick : afterStep (given 0x12#64 { atTick 5 8 with faultCode := 1, faultCmd := 6 })
    (fun t => decide (t = { atTick 5 8 with faultCode := 1, faultCmd := 6 })) = true := by decide

/-! ### Witnesses: for each obligation with hypotheses, concrete values that meet them all, one for each clause -/

/-- Filter 0 constructed and pressed once, both latches set; filter 1 unconstructed. -/
def pressed : State := withFlt (flt true 0xFF true true true) []

/-- One slot registered in a registry of two by SCH_REG with an external handle. -/
def registered (tick P : Tick) : State :=
  { atTick tick 2 with
    slots := [⟨0x80, P, P⟩, Slot.reset], count := 1, res := true }

theorem witness_EncodeOfDecodeIsTheWord : decode 0x0000000600008111#64 = .ok (.schReg 0x81 6) := by
  decide

theorem witness_AtMostOneRowMatches_match : ∃ r ∈ opcodeTable,
    0x0000000600008111#64 &&& r.mask = r.pattern :=
  ⟨_, .tail _ (.tail _ (.tail _ (.tail _ (.tail _ (.tail _ (.head _)))))), by decide⟩

theorem witness_AtMostOneRowMatches_illegal :
    (∀ r ∈ opcodeTable, 0x0000000000000006#64 &&& r.mask ≠ r.pattern) ∧
    (given 6 (atTick 5 8)).inputs = .command .host 6 :: [] ∧ (given 6 (atTick 5 8)).faultCode = 0 := by
  refine ⟨?_, rfl, rfl⟩
  simp only [opcodeTable, List.forall_mem_cons]
  exact ⟨by decide, by decide, by decide, by decide, by decide, by decide, by decide, by decide, nofun⟩

theorem witness_IllegalWordsFaultWithNoOtherEffect :
    (given 0x112 (atTick 5 8)).inputs = .command .host 0x112 :: [] ∧
    (given 0x112 (atTick 5 8)).faultCode = 0 ∧
    decode 0x0000000000000112#64 = .error .unusedOperandSet := by decide

theorem witness_BusTransferIsAWholeWordOrNothing : ([] : List Byte).length ≠ 8 ∧
    ([0x12, 0, 0, 0, 0, 0, 0] : List Byte).length ≠ 8 ∧
    ([0x12, 0, 0, 0, 0, 0, 0, 0, 0] : List Byte).length ≠ 8 := by decide

theorem witness_StepRunsTheDecodedCommand :
    (given 0x12 pressed).inputs = .command .host 0x12 :: [] ∧ (given 0x12 pressed).faultCode = 0 ∧
    decode 0x0000000000000012#64 = .ok .schTick := by decide

/-- A halted block that is presented a tick. -/
def haltedTick : State := given 0x12 ((atTick 5 8).faulted 0x1 6)

theorem witness_HaltedBlockIgnoresCommands :
    haltedTick.inputs = .command .host 0x12 :: [] ∧ haltedTick.faultCode ≠ 0 := by decide

/-- A halted block that is reset, with a tick behind. -/
def haltedReset : State := { (atTick 5 8).faulted 0x1 6 with inputs := [.reset, tickInput] }

theorem witness_ResetStepSetsResetValues : haltedReset.inputs = .reset :: [tickInput] := by decide

theorem witness_ResetIsTheOnlyWayBack_reset : haltedReset.inputs = .reset :: [tickInput] := by decide

theorem witness_ResetIsTheOnlyWayBack_halted : ∃ t, step haltedTick = .next t ∧
    haltedTick.inputs.head? ≠ some .reset ∧ haltedTick.faultCode ≠ 0 := ⟨_, rfl, by decide, by decide⟩

theorem witness_ResetIsTheOnlyWayBack_wrap : ∃ t,
    step (given 0x12 (atTick 0xFFFFFFFF 8)) = .next t ∧
    (given 0x12 (atTick 0xFFFFFFFF 8)).inputs.head? ≠ some .reset ∧ t.tickCounter = 0 :=
  ⟨_, rfl, by decide, by decide⟩

theorem witness_FirstFailingCheckIsReported_halted :
    haltedTick.inputs = .command .host 0x12 :: [] ∧ haltedTick.faultCode ≠ 0 := by decide

theorem witness_FirstFailingCheckIsReported_decode :
    (given 0x112 pressed).inputs = .command .host 0x112 :: [] ∧ (given 0x112 pressed).faultCode = 0 ∧
    decode 0x0000000000000112#64 = .error .unusedOperandSet := by decide

theorem witness_FirstFailingCheckIsReported_checks :
    (given 0x503 pressed).inputs = .command .host 0x503 :: [] ∧ (given 0x503 pressed).faultCode = 0 ∧
    decode 0x0000000000000503#64 = .ok (.fltAct 5) := by decide

/-- A full registry of one slot, presented one more registration. -/
def fullReg : State := given 0x0000000600008111 (withSlots 0 [⟨0x80, 4, 4⟩])

theorem witness_FirstFailingCheckIsReported_full :
    fullReg.inputs = .command .host 0x0000000600008111 :: [] ∧ fullReg.faultCode = 0 ∧
    decode 0x0000000600008111#64 = .ok (.schReg 0x81 6) ∧ fullReg.failedCheck (.schReg 0x81 6) = 0 ∧
    fullReg.count = fullReg.cap := by decide

theorem witness_FaultEntryIsPrecise : ∃ t, step (given 0x503 pressed) = .next t ∧
    (given 0x503 pressed).inputs = .command .host 0x503 :: [] ∧
    (given 0x503 pressed).faultCode = 0 ∧ t.faultCode ≠ 0 := ⟨_, rfl, by decide, by decide, by decide⟩

theorem witness_ParametersNeverChange : ∃ t, step haltedReset = .next t := ⟨_, rfl⟩

/-- The two sides of every index check: f = NF - 1 and f = NF. -/
theorem witness_FltInitConstructsFilter :
    pressed.nf ≤ (2 : Handle).toNat ∧ (1 : Handle).toNat < pressed.nf := by decide

theorem witness_FilterAdvanceShiftsAndEvaluates_lined_up : (0 : Handle).toNat < pressed.nf ∧
    { pressed with rawDraws := [true, false] }.rawDraws = true :: [false] ∧
    { pressed with rawDraws := [true, false] }.nextSample 0 = true := by decide

theorem witness_FilterAdvanceShiftsAndEvaluates_free : (0 : Handle).toNat < pressed.nf ∧
    pressed.rawDraws = [] ∧ pressed.nextSample 0 = Config.rawLevel 0 0 := ⟨by decide, rfl, rfl⟩

theorem witness_FltAdvAdvancesOnce : pressed.nf ≤ (2 : Handle).toNat ∧
    ((1 : Handle).toNat < pressed.nf ∧ (pressed.filter 1).constructed = false) ∧
    ((0 : Handle).toNat < pressed.nf ∧ (pressed.filter 0).constructed = true) := by decide

theorem witness_FltActReportsPressed : pressed.nf ≤ (255 : Handle).toNat ∧
    ((1 : Handle).toNat < pressed.nf ∧ (pressed.filter 1).constructed = false) ∧
    ((0 : Handle).toNat < pressed.nf ∧ (pressed.filter 0).constructed = true) := by decide

theorem witness_FltCriseReadsAndClears : pressed.nf ≤ (2 : Handle).toNat ∧
    ((1 : Handle).toNat < pressed.nf ∧ (pressed.filter 1).constructed = false) ∧
    ((0 : Handle).toNat < pressed.nf ∧ (pressed.filter 0).constructed = true) := by decide

theorem witness_FltCfallReadsAndClears : pressed.nf ≤ (2 : Handle).toNat ∧
    ((1 : Handle).toNat < pressed.nf ∧ (pressed.filter 1).constructed = false) ∧
    ((0 : Handle).toNat < pressed.nf ∧ (pressed.filter 0).constructed = true) := by decide

theorem witness_QueriesRepeatAndConsumesDoNot :
    (∃ t, exec (.fltAct 0) pressed = .next t ∧ t.faultCode = 0) ∧
    (∃ t, exec .schInst pressed = .next t) ∧
    (∃ t, exec (.fltCrise 0) pressed = .next t ∧ t.faultCode = 0) ∧
    (∃ t, exec (.fltCfall 0) pressed = .next t ∧ t.faultCode = 0) :=
  ⟨⟨_, rfl, by decide⟩, ⟨_, rfl⟩, ⟨_, rfl, by decide⟩, ⟨_, rfl, by decide⟩⟩

/-- FLT_INIT changes `constructed`, `active_level` and the window of filter 1. -/
theorem witness_FilterFieldsChangeOnlyAsTheTableSays_init : ∃ t,
    exec (.fltInit 1 true) pressed = .next t ∧ (1 : Handle).toNat < pressed.nf ∧
    (t.filter 1).constructed ≠ (pressed.filter 1).constructed ∧
    (t.filter 1).activeLevel ≠ (pressed.filter 1).activeLevel := ⟨_, rfl, by decide, by decide, by decide⟩

/-- One sample away from a rise: the window, the level and the latch change. -/
theorem witness_FilterFieldsChangeOnlyAsTheTableSays_rise : ∃ t,
    exec (.fltAdv 0) (withFlt (flt true 0x7F false false false) [true]) = .next t ∧
    (t.filter 0).window ≠ 0x7F ∧ (t.filter 0).rise = true := ⟨_, rfl, by decide, by decide⟩

/-- One sample away from a fall, through a dispatch. -/
theorem witness_FilterFieldsChangeOnlyAsTheTableSays_fall : ∃ t,
    exec .schTick { withFlt (flt true 0x80 true false false) [false] with
      slots := [⟨0, 4, 0⟩], count := 1 } = .next t ∧
    (t.filter 0).state = false ∧ (t.filter 0).fall = true := ⟨_, rfl, by decide, by decide⟩

/-- The consume commands clear a set latch. -/
theorem witness_FilterFieldsChangeOnlyAsTheTableSays_clear :
    (pressed.filter 0).rise = true ∧ (pressed.filter 0).fall = true ∧
    (∃ t, exec (.fltCrise 0) pressed = .next t ∧ (t.filter 0).rise = false) ∧
    (∃ t, exec (.fltCfall 0) pressed = .next t ∧ (t.filter 0).fall = false) :=
  ⟨by decide, by decide, ⟨_, rfl, by decide⟩, ⟨_, rfl, by decide⟩⟩

/-- A consume, and a dispatch of a due slot. -/
theorem witness_CommandsOnlyInitConsumeOrAdvance : (0 : Handle).toNat < pressed.nf ∧
    (∃ t, exec (.fltCrise 0) pressed = .next t) ∧ ∃ t, exec .schTick
      { withFlt (flt true 0x80 true false false) [false] with
        slots := [⟨0, 4, 0⟩], count := 1 } = .next t := ⟨by decide, ⟨_, rfl⟩, ⟨_, rfl⟩⟩

theorem witness_LevelChangesOnlyOnUnanimity_moves :
    (flt true 0x7F false false false).prevState = (flt true 0x7F false false false).state ∧
    ((flt true 0x7F false false false).advance true).state ≠ (flt true 0x7F false false false).state := by
  decide

theorem witness_LevelChangesOnlyOnUnanimity_stays :
    (flt true 0x7F true false false).prevState = (flt true 0x7F true false false).state ∧
    ((flt true 0x7F true false false).advance true).window ≠ 0x00 := by decide

/-- Latency at both ends of the run already in: no sample yet, and seven. -/
theorem witness_LevelChangesAtTheEighthSample :
    ((flt true 0x00 false false false).window.getLsbD 0 = false) ∧
    ((7 < 8) ∧ (∀ k < 7, (flt true 0x7F false false false).window.getLsbD k = true) ∧
      (flt true 0x7F false false false).window.getLsbD 7 = false) := by decide

theorem witness_LatchSettingsAlternate :
    (flt true 0x7F false false false).prevState = (flt true 0x7F false false false).state := by decide

theorem witness_LatchesPersistAndDoNotCount :
    (0 : Handle).toNat < pressed.nf ∧ (pressed.filter 0).constructed = true := by decide

/-- A press and a release of an active-high filter, and of an active-low one. -/
theorem witness_EdgesAreOfTheRawLevel :
    ((flt true 0x7F false false false).advance true).state = true ∧
    ((flt true 0x80 true false false).advance false).state = false ∧
    ((flt false 0x80 true false false).advance false).state = false ∧
    ((flt false 0x7F false false false).advance true).state = true := by decide

/-- The first 12 samples of program P5 of 95. -/
def bounce : List Bool :=
  [true, false, true, true, false, true, true, true, true, true, true, true]

theorem witness_BounceIsRejected :
    ∀ i, i + 8 ≤ bounce.length → ∃ b ∈ (bounce.drop i).take 8, b ≠ true := by
  intro i h
  have : i < 5 := by simp [bounce] at h; omega
  interval_cases i <;> decide

/-- Press, release, press, with the least distances: 16 advances between rises, 8 between a rise and a fall. -/
theorem witness_EdgesAreSixteenAdvancesApart_rise :
    let x := flt true 0x7F false false false
    x.prevState = x.state ∧ (x.advances []).setsRise true = true ∧
    (x.advances ([] ++ true :: (List.replicate 8 false ++ List.replicate 7 true))).setsRise true = true ∧
    (x.advances ([] ++ true :: List.replicate 7 false)).setsFall false = true := by decide

theorem witness_EdgesAreSixteenAdvancesApart_fall :
    let x := flt true 0x80 true false false
    x.prevState = x.state ∧ (x.advances []).setsFall false = true ∧
    (x.advances ([] ++ false :: (List.replicate 8 true ++ List.replicate 7 false))).setsFall false = true ∧
    (x.advances ([] ++ false :: List.replicate 7 true)).setsRise true = true := by decide

theorem witness_SchRegAddsSlotOrReportsFull_unconstructed :
    (1 : Handle).toNat < pressed.nf ∧ (pressed.filter 1).constructed = false := by decide

theorem witness_SchRegAddsSlotOrReportsFull_full :
    ((2 : Handle).toNat < fullReg.nf → (fullReg.filter 2).constructed = true) ∧
    fullReg.count = fullReg.cap := by decide

theorem witness_SchRegAddsSlotOrReportsFull_adds :
    ((0 : Handle).toNat < pressed.nf → (pressed.filter 0).constructed = true) ∧
    ((2 : Handle).toNat < pressed.nf → (pressed.filter 2).constructed = true) ∧
    pressed.count < pressed.cap := by decide

theorem witness_DispatchEmitsAndAdvances :
    pressed.nf ≤ (2 : Handle).toNat ∧ (1 : Handle).toNat < pressed.nf := by decide

theorem witness_SchTickFrame :
    (1 : Handle) ∉ (withSlots 12 [⟨0, 4, 12⟩, ⟨1, 4, 13⟩]).dueTargets ∧
    (withSlots 12 [⟨0, 4, 12⟩, ⟨1, 4, 13⟩]).dueTargets = [0] := by decide

theorem witness_DuplicateTargetsAdvanceTwice :
    let s := { withSlots 1 [⟨0, 1, 1⟩, ⟨0, 1, 1⟩] with rawDraws := [true, true] }
    (0 : Handle).toNat < s.nf ∧ s.dueTargets = [0, 0] ∧ s.rawDraws = true :: true :: [] := by decide

theorem witness_OnlySchTickCounts : (∃ t, exec .schTick pressed = .next t) ∧
    (∃ t, exec (.fltAdv 0) pressed = .next t) := ⟨⟨_, rfl⟩, ⟨_, rfl⟩⟩

theorem witness_OnlySchTickHasATrace :
    ∃ t, exec (.fltAct 0) pressed = .next t ∧ Instr.fltAct 0 ≠ .schTick := ⟨_, rfl, by decide⟩

theorem witness_OnlyQueriesAnswerOne : ∃ t, step (given 0x03 pressed) = .next t ∧
    (given 0x03 pressed).inputs = .command .host 0x03 :: [] ∧ t.res = true :=
  ⟨_, rfl, by decide, by decide⟩

theorem witness_OnlyRegistrationChangesCount :
    (∃ t, exec (.schReg 0x80 4) pressed = .next t) ∧
    (∃ t, exec .schTick pressed = .next t ∧ ∀ h P, Instr.schTick ≠ .schReg h P) :=
  ⟨⟨_, rfl⟩, ⟨_, rfl, fun _ _ => by simp⟩⟩

/-- Slot 0 is due and slot 1 is not. -/
theorem witness_RegistryOnlyGrows :
    let s := withSlots 12 [⟨0x80, 4, 12⟩, ⟨0x81, 4, 13⟩]
    (∃ t, exec .schTick s = .next t) ∧ s.count ≤ s.cap ∧
    s.slots[0]? = some ⟨0x80, 4, 12⟩ ∧ s.slots[1]? = some ⟨0x81, 4, 13⟩ :=
  ⟨⟨_, rfl⟩, by decide, by decide, by decide⟩

/-- L1-5 of 95: capacity 2, external targets. -/
theorem witness_CapacityRegistrationsSucceed :
    (atTick 0 2).count = 0 ∧ [((0x80 : Handle), (4 : Tick)), (0x81, 6)].length = (atTick 0 2).cap ∧
    (∀ r ∈ [((0x80 : Handle), (4 : Tick)), (0x81, 6)], r.1.toNat < (atTick 0 2).nf →
      ((atTick 0 2).filter r.1).constructed = true) ∧
    ((0x82 : Handle).toNat < (atTick 0 2).nf → ((atTick 0 2).filter 0x82).constructed = true) := by
  refine ⟨by decide, by decide, fun r hr h => ?_, fun h => absurd h (by decide)⟩
  simp only [List.mem_cons, List.not_mem_nil, or_false] at hr
  rcases hr with rfl | rfl <;> exact absurd h (by decide)

/-- Registered before any tick, with another command and no tick since: not yet. -/
theorem witness_FirstFireIsAtThePeriod_before :
    exec (.schReg 0x80 4) (atTick 0 2) = .next (registered 0 4) ∧
    (atTick 0 2).count ≤ (atTick 0 2).cap ∧ (registered 0 4).res = true ∧ 0 < (4 : Tick).toNat ∧
    (atTick 0 2).tickCounter.toNat ≤ (4 : Tick).toNat ∧
    (∃ t, execAll [.fltInit 0 true] (registered 0 4) = .next t) ∧
    [Instr.fltInit 0 true].count .schTick < (4 : Tick).toNat - (atTick 0 2).tickCounter.toNat :=
  ⟨rfl, by decide, by decide, by decide, by decide, ⟨_, rfl⟩, by decide⟩

/-- Registered at the counter value P (95 2.8): the next tick fires. -/
theorem witness_FirstFireIsAtThePeriod_fires :
    exec (.schReg 0x80 4) (atTick 4 2) = .next (registered 4 4) ∧
    (atTick 4 2).count ≤ (atTick 4 2).cap ∧ (registered 4 4).res = true ∧ 0 < (4 : Tick).toNat ∧
    (atTick 4 2).tickCounter.toNat ≤ (4 : Tick).toNat ∧
    (∃ t, execAll [.fltInit 0 true] (registered 4 4) = .next t) ∧
    [Instr.fltInit 0 true].count .schTick = (4 : Tick).toNat - (atTick 4 2).tickCounter.toNat :=
  ⟨rfl, by decide, by decide, by decide, by decide, ⟨_, rfl⟩, by decide⟩

/-- Period 1: after one tick, among other commands, slot 0 fires. -/
theorem witness_FiresAtExactMultiples :
    (exec (.schReg 0x80 1) (atTick 0 2) = .next (registered 0 1) ∧ (registered 0 1).res = true) ∧
    (atTick 0 2).count ≤ (atTick 0 2).cap ∧ (atTick 0 2).tickCounter = 0 ∧ 0 < (1 : Tick).toNat ∧
    ∃ t, execAll [.fltInit 0 true, .schTick, .schInst] (registered 0 1) = .next t ∧ t.fires 0 :=
  ⟨⟨rfl, rfl⟩, by decide, by decide, by decide, _, rfl, by decide, ⟨0x80, 1, 1⟩, by decide, by decide⟩

theorem witness_PeriodZeroFiresOncePerWrap :
    exec (.schReg 0x80 0) (atTick 10 2) = .next (registered 10 0) ∧
    (atTick 10 2).count ≤ (atTick 10 2).cap ∧ (registered 10 0).res = true ∧
    ∃ t, execAll [.schTick] (registered 10 0) = .next t := ⟨rfl, by decide, by decide, _, rfl⟩

/-- The late registration of 95 2.8, and one with period 0. -/
theorem witness_NoCatchUp :
    (exec (.schReg 0x80 4) (atTick 10 2) = .next (registered 10 4) ∧
      (registered 10 4).res = true ∧ (4 : Tick).toNat < (atTick 10 2).tickCounter.toNat ∧
      ∃ t, execAll [.schTick] (registered 10 4) = .next t) ∧
    (exec (.schReg 0x80 0) (atTick 1 2) = .next (registered 1 0) ∧
      (registered 1 0).res = true ∧ (0 : Tick).toNat < (atTick 1 2).tickCounter.toNat ∧
      ∃ t, execAll [] (registered 1 0) = .next t) ∧
    (atTick 10 2).count ≤ (atTick 10 2).cap ∧ (atTick 1 2).count ≤ (atTick 1 2).cap :=
  ⟨⟨rfl, by decide, by decide, _, rfl⟩, ⟨rfl, by decide, by decide, _, rfl⟩, by decide, by decide⟩

theorem witness_PresentedTicksAreExecuted : (registered 0 4).faultCode = 0 := by decide

theorem witness_AssembledWordsDecode : (AsmLine.schReg 255 0xFFFFFFFF).wellFormed = true ∧
    (AsmLine.schReg 256 0xFFFFFFFF).wellFormed = false := by decide

theorem witness_PseudoInstructionsExpand : 0 < 256 ∧ 255 < 256 := by decide

theorem witness_ResetHasTheInvariant :
    (1 ≤ 1 ∧ 1 ≤ 256 ∧ 1 ≤ 1) ∧ (1 ≤ 256 ∧ 256 ≤ 256 ∧ 1 ≤ 8) := by decide

/-- A state with a constructed, registered and due filter has the invariant, and steps. -/
theorem witness_EveryStepKeepsTheInvariant :
    let s := given 0x12 { withFlt (flt true 0x7F false false false) [true] with
      slots := [⟨0, 4, 0⟩, Slot.reset], count := 1 }
    s.Inv ∧ ∃ t, step s = .next t := ⟨by decide, ⟨_, rfl⟩⟩

/-- A reset state whose unspecified fields all differ from the model's choice. -/
def otherReset : State :=
  { State.reset with
    filters := List.replicate 2 { flt true 0x55 true true true with constructed := false }
    slots := List.replicate 8 ⟨1, 2, 3⟩
    faultCmd := 0x99 }

theorem witness_NoOutcomeDependsOnUnspecifiedFields :
    (given 0x12 State.reset).LooksLike (given 0x12 otherReset) ∧
    given 0x12 State.reset ≠ given 0x12 otherReset ∧
    (∃ t, step (given 0x12 State.reset) = .next t) ∧ ∃ t, step (given 0x12 otherReset) = .next t := by
  refine ⟨⟨rfl, rfl, fun f => ?_, rfl, rfl, rfl, rfl, nofun, rfl, rfl, rfl, rfl, rfl⟩, by decide,
    ⟨_, rfl⟩, ⟨_, rfl⟩⟩
  have h : ∀ x y : List DebounceFilter, x.length = y.length → (∀ z ∈ x, z.constructed = false) →
      (∀ z ∈ y, z.constructed = false) →
      (x.getD f.toNat DebounceFilter.reset).LooksLike (y.getD f.toNat DebounceFilter.reset) := by
    intro x y hl hx hy
    by_cases hf : f.toNat < x.length
    · have hf' := hl ▸ hf
      rw [List.getD_eq_getElem _ _ hf, List.getD_eq_getElem _ _ hf']
      have h1 := hx _ (List.getElem_mem hf)
      exact ⟨h1.trans (hy _ (List.getElem_mem hf')).symm, fun h2 => absurd (h1.symm.trans h2) (by decide)⟩
    · have hf' : y.length ≤ f.toNat := by omega
      rw [List.getD_eq_default _ _ (by omega), List.getD_eq_default _ _ hf']
      exact ⟨rfl, fun _ => rfl⟩
  exact h _ _ (by decide) (by decide) (by decide)

end Sys2Proof.Tests
end

section
/-! PROOFS. The scope of spec/00_scope.md: what every step keeps. Each operation keeps the invariant (R27, R29, R32, R41) and the parameters (R5); commands and steps follow by the case lists `exec_cases` and `step_cases`. -/

namespace Sys2Proof.Machine

/-! ### The parameters (R5) -/

/-- A command changes neither NF nor CAP. -/
theorem exec_keeps_params {i : Instr} {s t : State} (h : exec i s = .next t) :
    t.nf = s.nf ∧ t.cap = s.cap := by
  rcases exec_cases h with ⟨c, _, rfl⟩ | ⟨_, hdone⟩
  · exact ⟨rfl, rfl⟩
  rcases hdone with ⟨r, rfl, _⟩ | ⟨f, x, r, _, rfl, _⟩ | ⟨f, _, _, rfl⟩ | ⟨g, P, _, _, _, rfl⟩ |
    ⟨_, rfl⟩
  · exact ⟨rfl, rfl⟩
  all_goals simp

/-- Settles O17: a step is one of the block's own operations or a command, and each keeps NF and CAP. -/
theorem parametersNeverChange : Obligations.ParametersNeverChange := by
  intro s t h
  rcases step_cases h with ⟨_, rfl⟩ | ⟨_, _, _, _, _, rfl⟩ | ⟨_, _, rfl⟩ | ⟨_, _, _, _, _, hword⟩
  · exact ⟨rfl, rfl⟩
  · exact ⟨rfl, rfl⟩
  · simp
  · rcases hword with ⟨_, rfl⟩ | ⟨_, _, rfl⟩ | ⟨_, i, _, hexec⟩
    · exact ⟨rfl, rfl⟩
    · exact ⟨rfl, rfl⟩
    · simpa using exec_keeps_params hexec

/-! ### Settled filters (R41, R107) -/

theorem DebounceFilter.advance_settled (x : DebounceFilter) (b : Bool) : (x.advance b).Settled := by
  refine ⟨rfl, fun hw => ?_, fun hw => ?_⟩ <;> rw [DebounceFilter.advance_state, hw]
  · exact settledLevel_unanimous true x.state
  · exact settledLevel_unanimous false x.state

theorem DebounceFilter.init_settled (pol : Bool) : (DebounceFilter.init pol).Settled := by
  revert pol; decide

theorem FaultCause.code_toNat_le (c : FaultCause) : c.code.toNat ≤ 3 := by
  cases c <;> decide

/-! ### The slots in use (R29, R30) -/

theorem State.addSlot_take_count {s : State} (h : s.count < s.cap) (x : Slot) :
    (s.addSlot x).slots.take (s.addSlot x).count = s.slots.take s.count ++ [x] := by
  have hlen : s.count < s.slots.length := h
  simp [List.take_add_one, List.take_set_of_le, hlen]

/-- The scan moves slots on and keeps their targets (R142). -/
theorem exists_target_of_mem_take_scannedSlots {l : List Slot} {tick : Tick} {n m : Nat} {x : Slot}
    (h : x ∈ (scannedSlots l tick n).take m) : ∃ y ∈ l.take m, y.target = x.target := by
  obtain ⟨i, hi⟩ := List.mem_iff_getElem?.1 h
  rw [List.getElem?_take] at hi
  split at hi
  case isFalse => cases hi
  case isTrue him =>
    rw [scannedSlots_getElem?] at hi
    obtain ⟨y, hy, rfl⟩ := Option.map_eq_some_iff.1 hi
    refine ⟨y, List.mem_iff_getElem?.2 ⟨i, ?_⟩, ?_⟩
    · rw [List.getElem?_take, if_pos him, hy]
    · split <;> rfl

/-! ### Each operation keeps the invariant -/

/-- The invariant speaks of the filters, the slots, `count` and `fault_code` alone. -/
theorem State.Inv.congr {s t : State} (h : s.Inv) (hfilters : t.filters = s.filters)
    (hslots : t.slots = s.slots) (hcount : t.count = s.count) (hcode : t.LegalFaultCode) :
    t.Inv := by
  obtain ⟨hparams, hfits, _, htargets, hsettled⟩ := h
  have hnf := State.nf_congr hfilters
  have hcap := State.cap_congr hslots
  refine ⟨?_, ?_, hcode, ?_, ?_⟩
  · rwa [State.LegalParams, hnf, hcap]
  · rwa [State.CountFits, hcount, hcap]
  · rw [State.TargetsConstructed, hslots, hcount, hnf]
    intro x hx hlt
    rw [State.filter_congr hfilters]
    exact htargets x hx hlt
  · rwa [State.FiltersSettled, hfilters]

theorem State.Inv.legalFaultCode {s : State} (h : s.Inv) : s.LegalFaultCode := by
  obtain ⟨_, _, hcode, _, _⟩ := h
  exact hcode

theorem State.Inv.filter_settled {s : State} (h : s.Inv) {f : Handle} (hf : f.toNat < s.nf)
    (hc : (s.filter f).constructed = true) : (s.filter f).Settled := by
  obtain ⟨_, _, _, _, hsettled⟩ := h
  refine hsettled _ ?_ hc
  rw [State.filter_eq_getElem hf]
  exact List.getElem_mem hf

theorem State.Inv.answer {s : State} (h : s.Inv) (r : Bool) : (s.answer r).Inv :=
  h.congr rfl rfl rfl h.legalFaultCode

theorem State.Inv.emit {s : State} (h : s.Inv) (g : Handle) : (s.emit g).Inv :=
  h.congr rfl rfl rfl h.legalFaultCode

theorem State.Inv.popInput {s : State} (h : s.Inv) : s.popInput.Inv :=
  h.congr rfl rfl rfl h.legalFaultCode

theorem State.Inv.ignoreCommand {s : State} (h : s.Inv) : s.ignoreCommand.Inv :=
  h.congr rfl rfl rfl h.legalFaultCode

theorem State.Inv.afterDraw {s : State} (h : s.Inv) : s.afterDraw.Inv :=
  h.congr rfl rfl rfl h.legalFaultCode

theorem State.Inv.countTick {s : State} (h : s.Inv) : s.countTick.Inv :=
  h.congr rfl rfl rfl h.legalFaultCode

theorem State.Inv.raiseFault {s : State} (h : s.Inv) (c : FaultCause) (w : Word) :
    (s.raiseFault c w).Inv :=
  h.congr rfl rfl rfl c.code_toNat_le

/-- Writing a filter keeps the invariant when it un-constructs nothing and leaves a settled filter. -/
theorem State.Inv.setFilter {s : State} (h : s.Inv) {f : Handle} {x : DebounceFilter}
    (hcons : (s.filter f).constructed = true → x.constructed = true)
    (hx : x.constructed = true → x.Settled) : (s.setFilter f x).Inv := by
  obtain ⟨hparams, hfits, hcode, htargets, hsettled⟩ := h
  refine ⟨?_, hfits, hcode, fun y hy hlt => ?_, fun y hy => ?_⟩
  · simpa only [State.LegalParams, State.setFilter_nf, State.setFilter_cap] using hparams
  · rw [State.setFilter_nf] at hlt
    have hold := htargets y hy hlt
    by_cases hf : y.target = f
    · rw [hf] at hlt hold ⊢
      rw [State.setFilter_filter_self hlt]
      exact hcons hold
    · rwa [State.setFilter_filter_ne s hf]
  · rcases List.mem_or_eq_of_mem_set hy with hmem | rfl
    · exact hsettled y hmem
    · exact hx

theorem State.Inv.filterAdvance {s : State} (h : s.Inv) (f : Handle) : (s.filterAdvance f).Inv :=
  h.afterDraw.setFilter id fun _ => DebounceFilter.advance_settled _ _

theorem State.Inv.dispatch {s : State} (h : s.Inv) (g : Handle) : (s.dispatch g).Inv := by
  rcases s.dispatch_cases g with ⟨_, e⟩ | ⟨_, e⟩ <;> rw [e]
  · exact h.emit g
  · exact (h.emit g).filterAdvance g

theorem State.Inv.dispatches {s : State} (h : s.Inv) (l : List Handle) :
    (l.foldl State.dispatch s).Inv := by
  induction l generalizing s with
  | nil => exact h
  | cons g l ih => exact ih (h.dispatch g)

/-- Rewriting the slots keeps the invariant when their number and the targets in use stay. -/
theorem State.Inv.withSlots {s : State} (h : s.Inv) {l : List Slot} (hlen : l.length = s.cap)
    (htarget : ∀ x ∈ l.take s.count, ∃ y ∈ s.slots.take s.count, y.target = x.target) :
    (s.withSlots l).Inv := by
  obtain ⟨⟨hnf, hnf', hcap⟩, hfits, hcode, htargets, hsettled⟩ := h
  refine ⟨⟨hnf, hnf', hcap.trans_eq hlen.symm⟩, hfits.trans_eq hlen.symm, hcode, ?_, hsettled⟩
  intro x hx
  obtain ⟨y, hy, hyx⟩ := htarget x hx
  rw [← hyx]
  exact htargets y hy

/-- SCH_REG's new slot: the construction check has passed and a slot is free (R141). -/
theorem State.Inv.addSlot {s : State} (h : s.Inv) (hfree : s.count ≠ s.cap) {x : Slot}
    (hx : x.target.toNat < s.nf → (s.filter x.target).constructed = true) : (s.addSlot x).Inv := by
  obtain ⟨hparams, hfits, hcode, htargets, hsettled⟩ := h
  have hlt : s.count < s.cap := lt_of_le_of_ne hfits hfree
  refine ⟨?_, ?_, hcode, ?_, hsettled⟩
  · simpa only [State.LegalParams, State.addSlot_nf, State.addSlot_cap] using hparams
  · rw [State.CountFits, State.addSlot_count, State.addSlot_cap]
    exact hlt
  · rw [State.TargetsConstructed, State.addSlot_take_count hlt]
    intro y hy
    rcases List.mem_append.1 hy with hy | hy
    · exact htargets y hy
    · obtain rfl := List.mem_singleton.1 hy
      exact hx

theorem State.Inv.afterTick {s : State} (h : s.Inv) : s.afterTick.Inv := by
  refine (((h.answer false).dispatches s.dueTargets).withSlots ?_ ?_).countTick
  · simp [State.cap, scannedSlots]
  · simp only [State.dispatches_count, State.dispatches_slots]
    exact fun x => exists_target_of_mem_take_scannedSlots

/-! ### Reset -/

theorem State.resetWith_inv {nf cap : Nat} (hnf : 1 ≤ nf) (hnf' : nf ≤ 256) (hcap : 1 ≤ cap) :
    (State.resetWith nf cap).Inv := by
  have enf : (State.resetWith nf cap).nf = nf := List.length_replicate
  have ecap : (State.resetWith nf cap).cap = cap := List.length_replicate
  refine ⟨?_, Nat.zero_le _, Nat.zero_le _, nofun, fun x hx hc => ?_⟩
  · rw [State.LegalParams, enf, ecap]
    exact ⟨hnf, hnf', hcap⟩
  · obtain rfl := List.eq_of_mem_replicate hx
    exact absurd hc Bool.false_ne_true

theorem State.Inv.applyReset {s : State} (h : s.Inv) : s.applyReset.Inv := by
  obtain ⟨⟨hnf, hnf', hcap⟩, _⟩ := h
  exact (State.resetWith_inv hnf hnf' hcap).congr rfl rfl rfl (Nat.zero_le _)

/-- Settles O55: `State.reset` is `State.resetWith` at the NF and CAP that Config names, which are legal. -/
theorem resetHasTheInvariant : Obligations.ResetHasTheInvariant :=
  ⟨State.resetWith_inv (by decide) (by decide) (by decide), fun _ _ => State.resetWith_inv⟩

/-! ### Commands and steps -/

theorem exec_keeps_inv {i : Instr} {s t : State} (h : s.Inv) (e : exec i s = .next t) : t.Inv := by
  rcases exec_cases e with ⟨c, _, rfl⟩ | ⟨_, hdone⟩
  · exact h.raiseFault c _
  rcases hdone with ⟨r, rfl, _⟩ | ⟨f, x, r, hf, rfl, hx⟩ | ⟨f, _, _, rfl⟩ |
    ⟨g, P, _, hfree, hg, rfl⟩ | ⟨_, rfl⟩
  · exact h.answer r
  · refine State.Inv.answer ?_ r
    rcases hx with ⟨pol, _, rfl⟩ | ⟨_, rfl⟩ | ⟨_, rfl⟩
    · exact h.setFilter (fun _ => rfl) fun _ => DebounceFilter.init_settled pol
    · exact h.setFilter id (h.filter_settled hf)
    · exact h.setFilter id (h.filter_settled hf)
  · exact (h.filterAdvance f).answer false
  · exact (h.addSlot hfree hg).answer true
  · exact h.afterTick

/-- Settles O56: each operation a step is made of keeps the invariant, by the cases of `step_cases` and `exec_cases`. -/
theorem everyStepKeepsTheInvariant : Obligations.EveryStepKeepsTheInvariant := by
  intro s t h hstep
  rcases step_cases hstep with ⟨_, rfl⟩ | ⟨_, _, _, _, _, rfl⟩ | ⟨_, _, rfl⟩ | ⟨_, _, _, _, _, hword⟩
  · exact h
  · exact h.popInput
  · exact h.popInput.applyReset
  · rcases hword with ⟨_, rfl⟩ | ⟨_, _, rfl⟩ | ⟨_, i, _, hexec⟩
    · exact h.popInput.ignoreCommand
    · exact h.popInput.raiseFault _ _
    · exact exec_keeps_inv h.popInput hexec

end Sys2Proof.Machine
end

section
/-! PROOFS. The state of spec/10_state.md. First that no operation lets an outcome depend on what reset leaves unspecified (R43-R45): each keeps `State.LooksLike` between two states. Then what a command can do to one filter (R20-R27), to the outputs (R37, R39) and to `count` (R29). -/

namespace Sys2Proof.Machine

/-! ### Filters that look the same (R43) -/

theorem DebounceFilter.LooksLike.refl (x : DebounceFilter) : x.LooksLike x :=
  ⟨rfl, fun _ => rfl⟩

theorem DebounceFilter.LooksLike.advance {x y : DebounceFilter} (h : x.LooksLike y) (b : Bool) :
    (x.advance b).LooksLike (y.advance b) := by
  obtain ⟨hcons, heq⟩ := h
  exact ⟨hcons, fun hc => congrArg (·.advance b) (heq hc)⟩

theorem State.setFilter_filter (s : State) (f g : Handle) (x : DebounceFilter) :
    (s.setFilter f x).filter g = if g = f ∧ f.toNat < s.nf then x else s.filter g := by
  by_cases hg : g = f
  · subst hg
    by_cases hlt : g.toNat < s.nf
    · simp [hlt, State.setFilter_filter_self hlt]
    · have hle : s.nf ≤ g.toNat := by omega
      rw [State.filter_of_nf_le (s.setFilter_nf g x ▸ hle), State.filter_of_nf_le hle]
      simp [hlt]
  · simp [hg, State.setFilter_filter_ne s hg]

/-! ### Slots in use that are the same (R44) -/

/-- Writing slot `n` and taking it into use depends on the slots below it and on their number alone. -/
theorem take_succ_set_slots {l k : List Slot} {n : Nat} (hlen : l.length = k.length)
    (h : l.take n = k.take n) (x : Slot) : (l.set n x).take (n + 1) = (k.set n x).take (n + 1) := by
  rw [List.take_add_one, List.take_add_one, List.take_set_of_le le_rfl,
    List.take_set_of_le le_rfl, h, List.getElem?_set_self', List.getElem?_set_self']
  rcases Nat.lt_or_ge n l.length with hn | hn
  · simp [hn, hlen ▸ hn]
  · simp [hn, hlen ▸ hn]

/-- The scan's effect on the slots in use depends on them alone. -/
theorem take_scannedSlots (l : List Slot) (tick : Tick) (n : Nat) :
    (scannedSlots l tick n).take n = scannedSlots (l.take n) tick n := by
  apply List.ext_getElem?
  intro i
  simp only [List.getElem?_take, scannedSlots_getElem?]
  split <;> rfl

/-! ### Each operation keeps two states looking the same -/

section
variable {s t : State}

theorem State.LooksLike.answer (h : s.LooksLike t) (r : Bool) :
    (s.answer r).LooksLike (t.answer r) :=
  { h with res := rfl, trace := rfl }

theorem State.LooksLike.emit (h : s.LooksLike t) (g : Handle) : (s.emit g).LooksLike (t.emit g) :=
  { h with trace := congrArg (· ++ [g]) h.trace }

theorem State.LooksLike.popInput (h : s.LooksLike t) : s.popInput.LooksLike t.popInput :=
  { h with inputs := congrArg List.tail h.inputs }

theorem State.LooksLike.ignoreCommand (h : s.LooksLike t) :
    s.ignoreCommand.LooksLike t.ignoreCommand :=
  { h with res := rfl, trace := rfl }

theorem State.LooksLike.raiseFault (h : s.LooksLike t) (c : FaultCause) (w : Word) :
    (s.raiseFault c w).LooksLike (t.raiseFault c w) :=
  { h with faultCode := rfl, faultCmd := fun _ => rfl, res := rfl, trace := rfl }

theorem State.LooksLike.countTick (h : s.LooksLike t) : s.countTick.LooksLike t.countTick :=
  { h with tickCounter := congrArg (· + 1) h.tickCounter }

theorem State.LooksLike.afterDraw (h : s.LooksLike t) : s.afterDraw.LooksLike t.afterDraw :=
  { h with
    rawDraws := congrArg List.tail h.rawDraws
    drawCount := congrArg (· + 1) h.drawCount }

theorem State.LooksLike.nextSample (h : s.LooksLike t) (f : Handle) :
    s.nextSample f = t.nextSample f := by
  rw [State.nextSample, State.nextSample, h.rawDraws, h.drawCount]

theorem State.LooksLike.setFilter (h : s.LooksLike t) (f : Handle) {x y : DebounceFilter}
    (hxy : x.LooksLike y) : (s.setFilter f x).LooksLike (t.setFilter f y) :=
  { h with
    nf := by rw [State.setFilter_nf, State.setFilter_nf, h.nf]
    filters := fun g => by
      rw [State.setFilter_filter, State.setFilter_filter, ← h.nf]
      split
      · exact hxy
      · exact h.filters g }

theorem State.LooksLike.filterAdvance (h : s.LooksLike t) (f : Handle) :
    (s.filterAdvance f).LooksLike (t.filterAdvance f) := by
  rw [State.filterAdvance, State.filterAdvance, ← h.nextSample f]
  exact h.afterDraw.setFilter f ((h.filters f).advance _)

theorem State.LooksLike.dispatch (h : s.LooksLike t) (g : Handle) :
    (s.dispatch g).LooksLike (t.dispatch g) := by
  rcases Nat.lt_or_ge g.toNat s.nf with hg | hg
  · rw [State.dispatch_internal hg, State.dispatch_internal (h.nf ▸ hg)]
    exact (h.emit g).filterAdvance g
  · rw [State.dispatch_external hg, State.dispatch_external (h.nf ▸ hg)]
    exact h.emit g

theorem State.LooksLike.dispatches (h : s.LooksLike t) (l : List Handle) :
    (l.foldl State.dispatch s).LooksLike (l.foldl State.dispatch t) := by
  induction l generalizing s t with
  | nil => exact h
  | cons g l ih => exact ih (h.dispatch g)

theorem State.LooksLike.withSlots (h : s.LooksLike t) {l k : List Slot}
    (hlen : l.length = k.length) (htake : l.take s.count = k.take t.count) :
    (s.withSlots l).LooksLike (t.withSlots k) :=
  { h with cap := hlen, slots := htake }

theorem State.LooksLike.addSlot (h : s.LooksLike t) (x : Slot) :
    (s.addSlot x).LooksLike (t.addSlot x) :=
  { h with
    cap := by rw [State.addSlot_cap, State.addSlot_cap, h.cap]
    count := congrArg (· + 1) h.count
    slots := by
      have hslots := h.slots
      simp only [State.addSlot_slots, State.addSlot_count, ← h.count] at hslots ⊢
      exact take_succ_set_slots h.cap hslots x }

theorem State.LooksLike.applyReset (h : s.LooksLike t) : s.applyReset.LooksLike t.applyReset :=
  { h with
    nf := by rw [State.applyReset_nf, State.applyReset_nf, h.nf]
    cap := by rw [State.applyReset_cap, State.applyReset_cap, h.cap]
    filters := fun f => by
      rw [State.applyReset_filter, State.applyReset_filter]
      exact .refl _
    tickCounter := rfl
    count := rfl
    slots := rfl
    faultCode := rfl
    faultCmd := fun _ => rfl
    res := rfl
    trace := rfl }

/-! ### Commands and steps on two states that look the same -/

theorem State.LooksLike.dueTargets (h : s.LooksLike t) : s.dueTargets = t.dueTargets := by
  rw [State.dueTargets, State.dueTargets, h.slots, h.tickCounter]

theorem State.LooksLike.afterTick (h : s.LooksLike t) : s.afterTick.LooksLike t.afterTick := by
  rw [State.afterTick, State.afterTick, ← h.dueTargets]
  refine (((h.answer false).dispatches _).withSlots ?_ ?_).countTick
  · simpa [scannedSlots, State.cap] using h.cap
  · rw [State.dispatches_count, State.dispatches_count, State.answer_count, State.answer_count,
      take_scannedSlots, take_scannedSlots, h.slots, h.tickCounter, h.count]

theorem State.LooksLike.checkFilter (h : s.LooksLike t) (f : Handle) (n : Bool) :
    s.checkFilter f n = t.checkFilter f n := by
  obtain ⟨hcons, _⟩ := h.filters f
  rw [State.checkFilter, State.checkFilter, h.nf, hcons]

theorem State.LooksLike.checkTarget (h : s.LooksLike t) (g : Handle) :
    s.checkTarget g = t.checkTarget g := by
  obtain ⟨hcons, _⟩ := h.filters g
  rw [State.checkTarget, State.checkTarget, State.isInternal, State.isInternal, h.nf, hcons]

theorem State.constructed_of_checkFilter_none {f : Handle} (h : s.checkFilter f true = none) :
    (s.filter f).constructed = true := by
  by_contra hc
  rcases Nat.lt_or_ge f.toNat s.nf with hf | hf
  · rw [State.checkFilter_unconstructed hf (Bool.eq_false_iff.2 hc)] at h
    cases h
  · rw [State.checkFilter_badIndex true hf] at h
    cases h

/-- A filter command on two states that look the same: the same check fails, or the effect is on filters that look the same, and are the same where the command needs its filter constructed. -/
theorem State.LooksLike.withFilter {s' t' : State} (h : s.LooksLike t) {f : Handle} {n : Bool}
    {i : Instr} {effect effect' : DebounceFilter → State}
    (he : (n = true → s.filter f = t.filter f) →
      (effect (s.filter f)).LooksLike (effect' (t.filter f)))
    (hs : s.withFilter f n i effect = .next s') (ht : t.withFilter f n i effect' = .next t') :
    s'.LooksLike t' := by
  rw [State.withFilter] at hs ht
  rw [← h.checkFilter f n] at ht
  cases hcheck : s.checkFilter f n with
  | some c =>
    rw [hcheck] at hs ht
    obtain rfl := next_inj hs
    obtain rfl := next_inj ht
    exact h.raiseFault c _
  | none =>
    rw [hcheck] at hs ht
    obtain rfl := next_inj hs
    obtain rfl := next_inj ht
    refine he fun hn => ?_
    subst hn
    obtain ⟨_, heq⟩ := h.filters f
    exact heq (State.constructed_of_checkFilter_none hcheck)

theorem execSchReg_looksLike {s' t' : State} (h : s.LooksLike t) {g : Handle} {P : Tick}
    (hs : exec (.schReg g P) s = .next s') (ht : exec (.schReg g P) t = .next t') :
    s'.LooksLike t' := by
  simp only [exec, execSchReg] at hs ht
  rw [← h.checkTarget g, ← h.count, ← h.cap] at ht
  cases hcheck : s.checkTarget g with
  | some c =>
    rw [hcheck] at hs ht
    obtain rfl := next_inj hs
    obtain rfl := next_inj ht
    exact h.raiseFault c _
  | none =>
    simp only [hcheck] at hs ht
    by_cases hfull : s.count = s.cap
    · rw [if_pos hfull] at hs ht
      obtain rfl := next_inj hs
      obtain rfl := next_inj ht
      exact h.answer false
    · rw [if_neg hfull] at hs ht
      obtain rfl := next_inj hs
      obtain rfl := next_inj ht
      exact (h.addSlot _).answer true

theorem exec_looksLike {i : Instr} {s' t' : State} (h : s.LooksLike t)
    (hs : exec i s = .next s') (ht : exec i t = .next t') : s'.LooksLike t' := by
  cases i with
  | fltInit f pol =>
    simp only [exec, execFltInit] at hs ht
    exact h.withFilter (fun _ => (h.setFilter f (.refl _)).answer false) hs ht
  | fltAdv f =>
    simp only [exec, execFltAdv] at hs ht
    exact h.withFilter (fun _ => (h.filterAdvance f).answer false) hs ht
  | fltAct f =>
    simp only [exec, execFltAct] at hs ht
    refine h.withFilter (fun heq => ?_) hs ht
    rw [heq rfl]
    exact h.answer _
  | fltCrise f =>
    simp only [exec, execFltCrise] at hs ht
    refine h.withFilter (fun heq => ?_) hs ht
    rw [heq rfl]
    exact (h.setFilter f (.refl _)).answer _
  | fltCfall f =>
    simp only [exec, execFltCfall] at hs ht
    refine h.withFilter (fun heq => ?_) hs ht
    rw [heq rfl]
    exact (h.setFilter f (.refl _)).answer _
  | schInst =>
    obtain rfl := next_inj hs
    obtain rfl := next_inj ht
    exact h.answer false
  | schReg g P => exact execSchReg_looksLike h hs ht
  | schTick =>
    rw [execSchTick_eq] at hs ht
    obtain rfl := next_inj hs
    obtain rfl := next_inj ht
    exact h.afterTick

/-- Two inputs are accepted alike: both steps are over, or both run the same command, on states that look the same. -/
def Accepted.LooksLike : Accepted → Accepted → Prop
  | .done s, .done t => s.LooksLike t
  | .run i s, .run j t => i = j ∧ s.LooksLike t
  | .done _, .run _ _ | .run _ _, .done _ => False

theorem State.LooksLike.acceptWord (h : s.LooksLike t) (w : Word) :
    (s.acceptWord w).LooksLike (t.acceptWord w) := by
  have hhalted : s.halted = t.halted := by rw [State.halted, State.halted, h.faultCode]
  rw [State.acceptWord, State.acceptWord, ← hhalted]
  split
  · exact h.ignoreCommand
  · cases decode w with
    | error e => exact h.raiseFault _ w
    | ok i => exact ⟨rfl, h⟩

theorem State.LooksLike.accept (h : s.LooksLike t) : s.accept.LooksLike t.accept := by
  rw [State.accept, State.accept, ← h.inputs]
  match s.inputs with
  | [] => exact h
  | .command _ w :: _ => exact h.popInput.acceptWord w
  | .transfer _ bytes :: _ =>
    cases hword : wordOfBytes Config.hostByteOrder bytes with
    | none =>
      simp only [hword]
      exact h.popInput
    | some w =>
      simp only [hword]
      exact h.popInput.acceptWord w
  | .reset :: _ => exact h.popInput.applyReset

end

/-- Settles O57: the two steps accept their input alike, and each command keeps the states looking the same. -/
theorem noOutcomeDependsOnUnspecifiedFields : Obligations.NoOutcomeDependsOnUnspecifiedFields := by
  intro s t s' t' h hs ht
  have haccept := h.accept
  simp only [step] at hs ht
  generalize s.accept = a at haccept hs
  generalize t.accept = b at haccept ht
  match a, b with
  | .done _, .done _ =>
    obtain rfl := next_inj hs
    obtain rfl := next_inj ht
    exact haccept
  | .run i _, .run _ _ =>
    obtain ⟨rfl, hrun⟩ := haccept
    exact exec_looksLike hrun hs ht
  | .done _, .run _ _ => exact haccept.elim
  | .run _ _, .done _ => exact haccept.elim

/-! ### What a command does to one filter (R20-R27) -/

section
variable (x : DebounceFilter) (l : List Bool)

@[simp] theorem DebounceFilter.advances_constructed :
    (x.advances l).constructed = x.constructed := by
  induction l generalizing x with
  | nil => rfl
  | cons b l ih => rw [DebounceFilter.advances_cons, ih, DebounceFilter.advance_constructed]

@[simp] theorem DebounceFilter.advances_activeLevel :
    (x.advances l).activeLevel = x.activeLevel := by
  induction l generalizing x with
  | nil => rfl
  | cons b l ih => rw [DebounceFilter.advances_cons, ih, DebounceFilter.advance_activeLevel]

variable {x}

/-- Advances clear no latch (R25, R111). -/
theorem DebounceFilter.advances_rise_of_rise (h : x.rise = true) : (x.advances l).rise = true := by
  induction l generalizing x with
  | nil => exact h
  | cons b l ih => exact ih (by rw [DebounceFilter.advance_rise, h, Bool.true_or])

/-- Advances clear no latch (R26, R111). -/
theorem DebounceFilter.advances_fall_of_fall (h : x.fall = true) : (x.advances l).fall = true := by
  induction l generalizing x with
  | nil => exact h
  | cons b l ih => exact ih (by rw [DebounceFilter.advance_fall, h, Bool.true_or])

end

/-- A list of dispatches advances an internal filter once for each time it is the target. -/
theorem State.dispatches_filter_advances (l : List Handle) {s : State} {f : Handle}
    (hf : f.toNat < s.nf) :
    ∃ samples, (l.foldl State.dispatch s).filter f = (s.filter f).advances samples ∧
      samples.length = l.count f := by
  induction l generalizing s with
  | nil => exact ⟨[], rfl, rfl⟩
  | cons g l ih =>
    obtain ⟨samples, hfilter, hlen⟩ := ih (s := s.dispatch g) (by rwa [State.dispatch_nf])
    rw [List.foldl_cons, hfilter]
    by_cases hg : f = g
    · subst hg
      refine ⟨s.nextSample f :: samples, ?_, by simp [hlen]⟩
      rw [s.dispatch_filter_self f hf, DebounceFilter.advances_cons]
    · refine ⟨samples, by rw [s.dispatch_filter_ne g hg], ?_⟩
      rw [hlen, List.count_cons_of_ne (Ne.symm hg)]

/-- How many times command `i` advances filter `f` (R63, R215). -/
def State.advanceCount (s : State) (i : Instr) (f : Handle) : Nat :=
  if i = .schTick then s.dueTargets.count f
  else if i = .fltAdv f ∧ (s.filter f).constructed = true then 1 else 0

/-- Everything a command can do to filter `f`: construct it, clear one latch, or advance it. -/
def FilterChange (i : Instr) (s t : State) (f : Handle) : Prop :=
  (∃ pol, i = .fltInit f pol ∧ t.filter f = DebounceFilter.init pol) ∨
  (i = .fltCrise f ∧ (s.filter f).constructed = true ∧
    t.filter f = { s.filter f with rise := false }) ∨
  (i = .fltCfall f ∧ (s.filter f).constructed = true ∧
    t.filter f = { s.filter f with fall := false }) ∨
  ∃ samples, t.filter f = (s.filter f).advances samples ∧ samples.length = s.advanceCount i f

/-- A filter that a command does not advance and leaves as it was. -/
theorem FilterChange.unchanged {i : Instr} {s t : State} {f : Handle}
    (hfilter : t.filter f = s.filter f) (hcount : s.advanceCount i f = 0) :
    FilterChange i s t f :=
  .inr (.inr (.inr ⟨[], hfilter, hcount.symm⟩))

theorem State.advanceCount_eq_zero {s : State} {i : Instr} {f : Handle} (htick : i ≠ .schTick)
    (hadv : i = .fltAdv f → (s.filter f).constructed = false) : s.advanceCount i f = 0 := by
  rw [State.advanceCount, if_neg htick, if_neg]
  rintro ⟨hi, hc⟩
  rw [hadv hi] at hc
  exact Bool.false_ne_true hc

/-- An advanced filter was the operand of FLT_ADV or a dispatched target of SCH_TICK. -/
theorem State.advanceCount_pos {s : State} {i : Instr} {f : Handle} (h : 0 < s.advanceCount i f) :
    i = .fltAdv f ∨ (i = .schTick ∧ f ∈ s.dueTargets) := by
  rw [State.advanceCount] at h
  split at h
  case isTrue htick => exact .inr ⟨htick, List.count_pos_iff.1 h⟩
  case isFalse htick =>
    split at h
    case isTrue hadv => exact .inl hadv.1
    case isFalse => exact absurd h (lt_irrefl 0)

theorem exec_filterChange {i : Instr} {s t : State} {f : Handle} (h : exec i s = .next t)
    (hf : f.toNat < s.nf) : FilterChange i s t f := by
  cases i with
  | fltInit g pol =>
    have hzero := s.advanceCount_eq_zero (i := .fltInit g pol) (f := f) nofun nofun
    rcases execFltInit_cases h with ⟨_, rfl⟩ | ⟨hg, rfl⟩
    · exact .unchanged rfl hzero
    · by_cases hfg : f = g
      · subst hfg
        exact .inl ⟨pol, rfl, State.setFilter_filter_self hg _⟩
      · exact .unchanged (State.setFilter_filter_ne s hfg _) hzero
  | fltAdv g =>
    rcases execFltAdv_cases h with ⟨hg, rfl⟩ | ⟨_, hg, rfl⟩ | ⟨hg, hc, rfl⟩
    · refine .unchanged rfl (s.advanceCount_eq_zero nofun ?_)
      rintro ⟨⟩
      omega
    · refine .unchanged rfl (s.advanceCount_eq_zero nofun ?_)
      rintro ⟨⟩
      exact hg
    · by_cases hfg : f = g
      · subst hfg
        refine .inr (.inr (.inr ⟨[s.nextSample f], State.filterAdvance_filter_self hg, ?_⟩))
        simp [State.advanceCount, hc]
      · refine .unchanged (State.filterAdvance_filter_ne s hfg) (s.advanceCount_eq_zero nofun ?_)
        rintro ⟨⟩
        exact absurd rfl hfg
  | fltAct g =>
    have hzero := s.advanceCount_eq_zero (i := .fltAct g) (f := f) nofun nofun
    rcases execFltAct_cases h with ⟨_, rfl⟩ | ⟨_, _, rfl⟩ | ⟨_, _, rfl⟩ <;>
      exact .unchanged rfl hzero
  | fltCrise g =>
    have hzero := s.advanceCount_eq_zero (i := .fltCrise g) (f := f) nofun nofun
    rcases execFltCrise_cases h with ⟨_, rfl⟩ | ⟨_, _, rfl⟩ | ⟨hg, hc, rfl⟩
    · exact .unchanged rfl hzero
    · exact .unchanged rfl hzero
    · by_cases hfg : f = g
      · subst hfg
        exact .inr (.inl ⟨rfl, hc, State.setFilter_filter_self hg _⟩)
      · exact .unchanged (State.setFilter_filter_ne s hfg _) hzero
  | fltCfall g =>
    have hzero := s.advanceCount_eq_zero (i := .fltCfall g) (f := f) nofun nofun
    rcases execFltCfall_cases h with ⟨_, rfl⟩ | ⟨_, _, rfl⟩ | ⟨hg, hc, rfl⟩
    · exact .unchanged rfl hzero
    · exact .unchanged rfl hzero
    · by_cases hfg : f = g
      · subst hfg
        exact .inr (.inr (.inl ⟨rfl, hc, State.setFilter_filter_self hg _⟩))
      · exact .unchanged (State.setFilter_filter_ne s hfg _) hzero
  | schInst =>
    obtain rfl := next_inj h
    exact .unchanged rfl (s.advanceCount_eq_zero nofun nofun)
  | schReg g P =>
    have hzero := s.advanceCount_eq_zero (i := .schReg g P) (f := f) nofun nofun
    rcases execSchReg_cases h with ⟨_, _, rfl⟩ | ⟨_, _, rfl⟩ | ⟨_, _, rfl⟩ <;>
      exact .unchanged rfl hzero
  | schTick =>
    rw [execSchTick_eq] at h
    obtain rfl := next_inj h
    exact .inr (.inr (.inr (State.dispatches_filter_advances s.dueTargets hf)))

/-- Settles O26: the changes of one filter, command by command. -/
theorem commandsOnlyInitConsumeOrAdvance : Obligations.CommandsOnlyInitConsumeOrAdvance :=
  fun _ _ _ _ h hf => exec_filterChange h hf

/-- A filter that a command takes some number of advances further was the operand of FLT_ADV or is in the trace, or stays as it was. -/
theorem exec_advanced_filter {i : Instr} {s t : State} {f : Handle} {samples : List Bool}
    (h : exec i s = .next t) (hfilter : t.filter f = (s.filter f).advances samples)
    (hlen : samples.length = s.advanceCount i f) :
    (i = .fltAdv f ∨ (i = .schTick ∧ f ∈ t.trace)) ∨ t.filter f = s.filter f := by
  cases samples with
  | nil => exact .inr hfilter
  | cons b l =>
    have hpos : 0 < s.advanceCount i f := by
      rw [← hlen]
      exact Nat.succ_pos l.length
    rcases State.advanceCount_pos hpos with hadv | ⟨rfl, hdue⟩
    · exact .inl (.inl hadv)
    · rw [execSchTick_eq] at h
      obtain rfl := next_inj h
      rw [State.afterTick_trace]
      exact .inl (.inr ⟨rfl, hdue⟩)

/-- Settles O25: read off the four ways a filter can change (O26). -/
theorem filterFieldsChangeOnlyAsTheTableSays :
    Obligations.FilterFieldsChangeOnlyAsTheTableSays := by
  intro i s t g h hg
  rcases exec_filterChange h hg with ⟨pol, hi, e⟩ | ⟨hi, _, e⟩ | ⟨hi, _, e⟩ | ⟨samples, e, hlen⟩
  · have hinit : ∃ pol, i = .fltInit g pol := ⟨pol, hi⟩
    rw [e]
    exact ⟨fun _ => ⟨rfl, hinit⟩, fun _ => hinit, fun _ => .inl hinit, fun _ _ => .inl hinit,
      nofun, fun _ _ => .inl hinit, nofun⟩
  · rw [e]
    simp [hi]
  · rw [e]
    simp [hi]
  · rcases exec_advanced_filter h e hlen with hadv | hsame
    · have hrise : (s.filter g).rise = true → (t.filter g).rise ≠ false := fun hr => by
        rw [e, DebounceFilter.advances_rise_of_rise samples hr]
        exact nofun
      have hfall : (s.filter g).fall = true → (t.filter g).fall ≠ false := fun hr => by
        rw [e, DebounceFilter.advances_fall_of_fall samples hr]
        exact nofun
      refine ⟨fun hne => absurd ?_ hne, fun hne => absurd ?_ hne, fun _ => .inr hadv,
        fun hr hr' => absurd hr' (hrise hr), fun _ _ => hadv,
        fun hr hr' => absurd hr' (hfall hr), fun _ _ => hadv⟩
      · rw [e, DebounceFilter.advances_constructed]
      · rw [e, DebounceFilter.advances_activeLevel]
    · rw [hsame]
      simp +contextual

/-! ### The window after FLT_INIT (R42) -/

/-- Settles O29: FLT_INIT leaves a window unanimous at the inactive level, and samples shift in below it. -/
theorem windowHoldsTheLastEightSamples : Obligations.WindowHoldsTheLastEightSamples := by
  intro pol samples k hk
  have hinit : ∀ j < 8, (DebounceFilter.init pol).window.getLsbD j = !pol :=
    (window_eq_unanimous _ _).1 rfl
  rw [DebounceFilter.advances_window_bit _ _ hk, hinit _ (by omega)]

/-! ### The outputs of a command (R37, R39) -/

/-- Settles O43: every effect but the tick's is an answer or a fault, with an empty trace. -/
theorem onlySchTickHasATrace : Obligations.OnlySchTickHasATrace := by
  intro i s t h hi
  rcases exec_cases h with ⟨c, _, rfl⟩ | ⟨_, hdone⟩
  · rfl
  rcases hdone with ⟨r, rfl, _⟩ | ⟨f, x, r, _, rfl, _⟩ | ⟨f, _, _, rfl⟩ | ⟨g, P, _, _, _, rfl⟩ |
    ⟨htick, _⟩
  · rfl
  · rfl
  · rfl
  · rfl
  · exact absurd htick hi

/-- A command that answers 1 raised no fault. -/
theorem exec_faultCode_of_res {i : Instr} {s t : State} (h : exec i s = .next t)
    (hres : t.res = true) : t.faultCode = s.faultCode := by
  rcases exec_cases h with ⟨c, _, rfl⟩ | ⟨_, hdone⟩
  · exact absurd hres Bool.false_ne_true
  rcases hdone with ⟨r, rfl, _⟩ | ⟨f, x, r, _, rfl, _⟩ | ⟨f, _, _, rfl⟩ | ⟨g, P, _, _, _, rfl⟩ |
    ⟨_, rfl⟩
  · rfl
  · rfl
  · rfl
  · rfl
  · exact s.afterTick_faultCode

/-- The commands that can answer 1 (R37). -/
theorem exec_query_of_res {i : Instr} {s t : State} (h : exec i s = .next t)
    (hres : t.res = true) :
    (∃ f, i = .fltAct f ∨ i = .fltCrise f ∨ i = .fltCfall f) ∨ ∃ g P, i = .schReg g P := by
  cases i with
  | fltAct f => exact .inl ⟨f, .inl rfl⟩
  | fltCrise f => exact .inl ⟨f, .inr (.inl rfl)⟩
  | fltCfall f => exact .inl ⟨f, .inr (.inr rfl)⟩
  | schReg g P => exact .inr ⟨g, P, rfl⟩
  | fltInit f pol =>
    rcases execFltInit_cases h with ⟨_, rfl⟩ | ⟨_, rfl⟩ <;> exact absurd hres Bool.false_ne_true
  | fltAdv f =>
    rcases execFltAdv_cases h with ⟨_, rfl⟩ | ⟨_, _, rfl⟩ | ⟨_, _, rfl⟩ <;>
      exact absurd hres Bool.false_ne_true
  | schInst =>
    obtain rfl := next_inj h
    exact absurd hres Bool.false_ne_true
  | schTick =>
    rw [execSchTick_eq] at h
    obtain rfl := next_inj h
    rw [State.afterTick_res] at hres
    exact absurd hres Bool.false_ne_true

/-- Settles O44: an ignored or illegal word answers 0, so the word was decoded and its command answered 1. -/
theorem onlyQueriesAnswerOne : Obligations.OnlyQueriesAnswerOne := by
  intro s t a w rest hin hstep hres
  rw [step, State.accept_word (x := .command a w) hin rfl] at hstep
  rcases s.popInput.acceptWord_cases w with ⟨_, e⟩ | ⟨_, _, e⟩ | ⟨hrun, i, hdecode, e⟩ <;>
    rw [e] at hstep
  · obtain rfl := next_inj hstep
    exact absurd hres Bool.false_ne_true
  · obtain rfl := next_inj hstep
    exact absurd hres Bool.false_ne_true
  · exact ⟨hrun, (exec_faultCode_of_res hstep hres).trans hrun, i, hdecode,
      exec_query_of_res hstep hres⟩

/-! ### `count` (R29) -/

/-- Settles O45: SCH_REG by its three cases, every other command by its effect. -/
theorem onlyRegistrationChangesCount : Obligations.OnlyRegistrationChangesCount := by
  intro i s t h
  constructor
  · rintro g P rfl
    rcases execSchReg_cases h with ⟨_, _, rfl⟩ | ⟨_, _, rfl⟩ | ⟨_, _, rfl⟩ <;> simp
  · intro hne
    rcases exec_cases h with ⟨c, _, rfl⟩ | ⟨_, hdone⟩
    · rfl
    rcases hdone with ⟨r, rfl, _⟩ | ⟨f, x, r, _, rfl, _⟩ | ⟨f, _, _, rfl⟩ |
      ⟨g, P, hreg, _, _, _⟩ | ⟨_, rfl⟩
    · rfl
    · rfl
    · rfl
    · exact absurd hreg (hne g P)
    · exact s.afterTick_count

/-! ### The state after reset (R43-R45) -/

theorem State.resetWith_filter (nf cap : Nat) (f : Handle) :
    (State.resetWith nf cap).filter f = DebounceFilter.reset := by
  simp only [State.filter, State.resetWith, List.getD_eq_getElem?_getD, List.getElem?_replicate]
  split <;> rfl

/-- Settles O10: the files have the lengths given, and each filter is a reset one. -/
theorem resetStateHasSpecifiedValues : Obligations.ResetStateHasSpecifiedValues := by
  refine fun nf cap => ⟨List.length_replicate, List.length_replicate, fun f => ?_, rfl, rfl, rfl⟩
  rw [State.resetWith_filter]
  rfl

end Sys2Proof.Machine
end

section
/-! PROOFS. What the agents present, spec/20_memory.md: words carried as bytes (R51, R52), one step for each input in the total order (R53, R57), ticks in a row (R187), and what a command does the second time (R54). -/

namespace Sys2Proof

/-! ### A word's bytes (R51, R52) -/

/-- Byte `i / 8` of a transfer carries bit `i` of its word. -/
theorem packBytes_getLsbD (bytes : List Byte) {i : Nat} (hi : i < 64) :
    (packBytes bytes).getLsbD i = (bytes.getD (i / 8) 0).getLsbD (i % 8) := by
  induction bytes generalizing i with
  | nil => simp [packBytes]
  | cons b bs ih =>
    rw [packBytes, BitVec.getLsbD_or, BitVec.getLsbD_shiftLeft, BitVec.getLsbD_setWidth]
    by_cases h8 : i < 8
    · simp [h8, hi, Nat.div_eq_of_lt h8, Nat.mod_eq_of_lt h8]
    · obtain ⟨k, rfl⟩ : ∃ k, i = k + 8 := ⟨i - 8, by omega⟩
      simp [hi, ih (i := k) (by omega)]

theorem packBytes_bytesOfWord_little (w : Word) : packBytes (bytesOfWord .little w) = w := by
  apply BitVec.eq_of_getLsbD_eq
  intro i hi
  have hbyte : i / 8 < 8 := by omega
  have hbit : i % 8 < 8 := by omega
  rw [packBytes_getLsbD _ hi]
  simp [bytesOfWord, hbyte, hbit, Nat.div_add_mod]

theorem wordOfBytes_bytesOfWord (o : Config.ByteOrder) (w : Word) :
    wordOfBytes o (bytesOfWord o w) = some w := by
  cases o with
  | little => exact congrArg some (packBytes_bytesOfWord_little w)
  | big =>
    have hrev : (bytesOfWord .big w).reverse = bytesOfWord .little w := List.reverse_reverse _
    exact congrArg some (by rw [hrev, packBytes_bytesOfWord_little])

theorem wordOfBytes_eq_none {bytes : List Byte} (h : bytes.length ≠ 8) (o : Config.ByteOrder) :
    wordOfBytes o bytes = none := if_neg h

end Sys2Proof

namespace Sys2Proof.Machine

/-! ### One step, by what is presented first (R57, R181) -/

theorem State.popInput_eq {s : State} {x : Input} {rest : List Input} (h : s.inputs = x :: rest) :
    s.popInput = s.withInputs rest := by
  simp [State.popInput, State.withInputs, h]

section
variable {s : State} {x : Input} {rest : List Input}

theorem step_reset (h : s.inputs = .reset :: rest) :
    step s = .next (s.withInputs rest).applyReset := by
  rw [step, State.accept_reset h, State.popInput_eq h]

theorem step_transfer_noWord {a : Agent} {bytes : List Byte}
    (h : s.inputs = .transfer a bytes :: rest)
    (hw : wordOfBytes Config.hostByteOrder bytes = none) : step s = .next (s.withInputs rest) := by
  rw [← State.popInput_eq h]
  simp [step, State.accept, h, hw]

variable {w : Word} (h : s.inputs = x :: rest) (hw : x.word? = some w)
include h hw

theorem step_halted (hf : s.faultCode ≠ 0) : step s = .next (s.withInputs rest).ignoreCommand := by
  have hh : (s.withInputs rest).halted = true := (State.halted_iff _).2 hf
  simp [step, State.accept_word h hw, State.popInput_eq h, State.acceptWord, hh]

theorem step_illegal (hf : s.faultCode = 0) {e : DecodeError} (hd : decode w = .error e) :
    step s = .next ((s.withInputs rest).raiseFault .illegalCmd w) := by
  have hh : (s.withInputs rest).halted = false := (State.halted_eq_false _).2 hf
  simp [step, State.accept_word h hw, State.popInput_eq h, State.acceptWord, hh, hd]

theorem step_legal (hf : s.faultCode = 0) {i : Instr} (hd : decode w = .ok i) :
    step s = exec i (s.withInputs rest) := by
  have hh : (s.withInputs rest).halted = false := (State.halted_eq_false _).2 hf
  simp [step, State.accept_word h hw, State.popInput_eq h, State.acceptWord, hh, hd]

end

/-- Settles O7: the step of a legal word, presented as a command. -/
theorem stepRunsTheDecodedCommand : Obligations.StepRunsTheDecodedCommand :=
  fun _ _ _ _ _ h hf hd => step_legal h rfl hf hd

/-- The word is all that a step takes from an input that presents one. -/
theorem step_eq_of_word {s : State} {x y : Input} {w : Word} (rest : List Input)
    (hx : x.word? = some w) (hy : y.word? = some w) :
    step (s.withInputs (x :: rest)) = step (s.withInputs (y :: rest)) := by
  rw [step, step, State.accept_word (s := s.withInputs (x :: rest)) rfl hx,
    State.accept_word (s := s.withInputs (y :: rest)) rfl hy]
  rfl

/-- Settles O6: the 8 bytes of a word present that word in either order, and any other number of bytes presents none. -/
theorem busTransferIsAWholeWordOrNothing : Obligations.BusTransferIsAWholeWordOrNothing :=
  fun _ _ rest =>
    ⟨fun w => step_eq_of_word rest (wordOfBytes_bytesOfWord _ w) rfl,
      fun _ hlen => step_transfer_noWord rfl (wordOfBytes_eq_none hlen _)⟩

/-! ### Every step answers, and reads one input (R57, R62, R221) -/

theorem exec_answersNext (i : Instr) (s : State) : ∃ t, exec i s = .next t := by
  cases i with
  | fltInit f pol => simp only [exec, execFltInit, State.withFilter_next]
  | fltAdv f => simp only [exec, execFltAdv, State.withFilter_next]
  | fltAct f => simp only [exec, execFltAct, State.withFilter_next]
  | fltCrise f => simp only [exec, execFltCrise, State.withFilter_next]
  | fltCfall f => simp only [exec, execFltCfall, State.withFilter_next]
  | schInst => exact ⟨_, rfl⟩
  | schReg h P =>
    simp only [exec, execSchReg]
    split
    · exact ⟨_, rfl⟩
    · split <;> exact ⟨_, rfl⟩
  | schTick => exact ⟨_, rfl⟩

/-- One next state for all continuations of the inputs. -/
theorem step_withInputs_cons (s : State) (x : Input) :
    ∃ t : State, ∀ later, step (s.withInputs (x :: later)) = .next (t.withInputs later) := by
  have hin : ∀ later, (s.withInputs (x :: later)).inputs = x :: later := fun _ => rfl
  cases hw : x.word? with
  | none =>
    cases x with
    | command a w => cases hw
    | transfer a bytes => exact ⟨s, fun later => step_transfer_noWord (hin later) hw⟩
    | reset => exact ⟨s.applyReset, fun later => step_reset (hin later)⟩
  | some w =>
    by_cases hf : s.faultCode = 0
    · cases hd : decode w with
      | error e => exact ⟨s.raiseFault .illegalCmd w, fun later => step_illegal (hin later) hw hf hd⟩
      | ok i =>
        obtain ⟨t, ht⟩ := exec_answersNext i s
        exact ⟨t, fun later => (step_legal (hin later) hw hf hd).trans (exec_withInputs ht later)⟩
    · exact ⟨s.ignoreCommand, fun later => step_halted (hin later) hw hf⟩

/-- Settles O14: the next state is the one of the first input alone, with the later inputs put back. -/
theorem stepDependsOnNoLaterInput : Obligations.StepDependsOnNoLaterInput :=
  step_withInputs_cons

theorem step_answersNext (s : State) : ∃ t, step s = .next t := by
  cases hi : s.inputs with
  | nil => exact ⟨s, by rw [step, State.accept_nil hi]⟩
  | cons x rest =>
    obtain ⟨t, ht⟩ := step_withInputs_cons s x
    have hs : s.withInputs (x :: rest) = s := hi ▸ s.withInputs_self
    exact ⟨t.withInputs rest, hs ▸ ht rest⟩

/-- Settles O16: a step with no input holds the state, and one with an input answers by `step_withInputs_cons`. -/
theorem everyStepAnswersNext : Obligations.EveryStepAnswersNext :=
  ⟨step_answersNext, exec_answersNext⟩

/-! ### Ticks in a row (R81, R187) -/

theorem State.tick_eq_afterTick (s : State) : s.tick = s.afterTick := by
  rw [State.tick, execSchTick_eq]

/-- `n + 1` ticks, counted from the first. -/
theorem State.ticks_succ_eq (s : State) (n : Nat) : s.ticks (n + 1) = s.tick.ticks n := by
  induction n with
  | zero => rfl
  | succ n ih => exact congrArg State.tick ih

theorem decode_tickWord : decode 0x0000000000000012#64 = .ok .schTick := by decide

/-- A running block takes a presented tick as one SCH_TICK. -/
theorem step_tickInput {s : State} (hf : s.faultCode = 0) (rest : List Input) :
    step (s.withInputs (tickInput :: rest)) = .next (s.afterTick.withInputs rest) :=
  calc step (s.withInputs (tickInput :: rest))
      = exec .schTick (s.withInputs rest) :=
        step_legal (s := s.withInputs (tickInput :: rest)) rfl rfl hf decode_tickWord
    _ = .next (s.afterTick.withInputs rest) := exec_withInputs (execSchTick_eq s) rest

theorem core_run_succ {s t : State} (h : step s = .next t) (n : Nat) :
    core.run (n + 1) s = core.run n t := by
  have hcore : core.step s = .next t := h
  simp only [Host.Core.run, hcore]

theorem core_run_ticks {s : State} (hf : s.faultCode = 0) (n : Nat) (rest : List Input) :
    core.run n (s.withInputs (List.replicate n tickInput ++ rest)) =
      .next ((s.withInputs rest).ticks n) := by
  induction n generalizing s with
  | zero => rfl
  | succ n ih =>
    rw [List.replicate_succ, List.cons_append, core_run_succ (step_tickInput hf _),
      ih (s.afterTick_faultCode.trans hf), State.ticks_succ_eq, State.tick_eq_afterTick,
      State.afterTick_withInputs]

/-- Settles O52, by induction on the number of ticks: each is one step, and leaves the block running. -/
theorem presentedTicksAreExecuted : Obligations.PresentedTicksAreExecuted :=
  fun _ n rest hf => core_run_ticks hf n rest

/-! ### The same command again (R54) -/

theorem FaultCause.code_ne_zero (c : FaultCause) : c.code ≠ 0 := by
  cases c <;> decide

section
variable {s t : State} {f : Handle} {i : Instr}

/-- A filter command on a constructed filter has its effect. -/
theorem State.withFilter_constructed (n : Bool) (effect : DebounceFilter → State)
    (hlt : f.toNat < s.nf) (hc : (s.filter f).constructed = true) :
    s.withFilter f n i effect = .next (effect (s.filter f)) := by
  rw [State.withFilter, State.checkFilter_constructed n hlt hc]

/-- A filter command that left the block running found its filter constructed. -/
theorem State.withFilter_running {effect : DebounceFilter → State}
    (h : s.withFilter f true i effect = .next t) (hf : t.faultCode = 0) :
    f.toNat < s.nf ∧ (s.filter f).constructed = true ∧ t = effect (s.filter f) := by
  rcases State.withFilter_cases h with ⟨_, rfl⟩ | ⟨_, _, _, rfl⟩ | ⟨hlt, hc, ht⟩
  · exact absurd hf (FaultCause.code_ne_zero .badIndex)
  · exact absurd hf (FaultCause.code_ne_zero .unconstructed)
  · exact ⟨hlt, hc rfl, ht⟩

/-- The effect shared by FLT_CRISE and FLT_CFALL (R105, R106): answer a latch of filter `f`, which is `x`, and clear it. -/
def State.consume (s : State) (f : Handle) (latch : DebounceFilter → Bool)
    (clear : DebounceFilter → DebounceFilter) (x : DebounceFilter) : State :=
  (s.setFilter f (clear x)).answer (latch x)

/-- A second consume answers 0 and leaves the filter as it is. -/
theorem State.consume_again {latch : DebounceFilter → Bool} {clear : DebounceFilter → DebounceFilter}
    (hconstructed : ∀ x, (clear x).constructed = x.constructed)
    (hlatch : ∀ x, latch (clear x) = false) (hclear : ∀ x, clear (clear x) = clear x)
    (h : s.withFilter f true i (s.consume f latch clear) = .next t) (hf : t.faultCode = 0) :
    ∃ u, t.withFilter f true i (t.consume f latch clear) = .next u ∧ u.res = false ∧
      u.filter f = t.filter f := by
  obtain ⟨hlt, hc, ht⟩ := State.withFilter_running h hf
  have hcleared : t.filter f = clear (s.filter f) := by
    rw [ht]; exact State.setFilter_filter_self hlt _
  have hlt' : f.toNat < t.nf := by rw [ht]; simpa [State.consume] using hlt
  have hc' : (t.filter f).constructed = true := by rw [hcleared, hconstructed, hc]
  refine ⟨_, State.withFilter_constructed true _ hlt' hc', ?_, ?_⟩
  · exact (congrArg latch hcleared).trans (hlatch _)
  · refine (State.setFilter_filter_self hlt' _).trans ?_
    rw [hcleared, hclear]

theorem execFltAct_again (h : exec (.fltAct f) s = .next t) (hf : t.faultCode = 0) :
    exec (.fltAct f) t = .next t := by
  simp only [exec, execFltAct] at h ⊢
  obtain ⟨hlt, hc, rfl⟩ := State.withFilter_running h hf
  exact State.withFilter_constructed true _ hlt hc

theorem execSchInst_again (h : exec .schInst s = .next t) : exec .schInst t = .next t := by
  obtain rfl := next_inj h
  rfl

end

/-- Settles O24: a query's own answer is all it changes, and no query reads an answer; a consume clears the latch that the second one answers. -/
theorem queriesRepeatAndConsumesDoNot : Obligations.QueriesRepeatAndConsumesDoNot :=
  ⟨fun _ _ _ h hf => execFltAct_again h hf, fun _ _ h => execSchInst_again h,
    fun _ _ _ h hf => State.consume_again (latch := (·.rise)) (clear := ({ · with rise := false }))
      (fun _ => rfl) (fun _ => rfl) (fun _ => rfl) h hf,
    fun _ _ _ h hf => State.consume_again (latch := (·.fall)) (clear := ({ · with fall := false }))
      (fun _ => rfl) (fun _ => rfl) (fun _ => rfl) h hf⟩

end Sys2Proof.Machine
end

section
/-! PROOFS. The words of spec/30_encoding.md: the rows of R73 and decode, what the encoder and decode say of each other (R71, R75), the list of illegal words (R76), and the assembler (R79, R80). -/

namespace Sys2Proof

section
variable {w : Word} {r r₁ r₂ : OpcodeRow}

/-! ### The rows of the table (R73, R75) -/

theorem opField_and (w m : Word) : opField (w &&& m) = opField w &&& opField m :=
  BitVec.extractLsb'_and

/-- Every mask covers `op`. -/
theorem opField_of_match (hr : r ∈ opcodeTable) (hm : w &&& r.mask = r.pattern) :
    opField w = opField r.pattern := by
  have hmask : ∀ r ∈ opcodeTable, opField r.mask = BitVec.allOnes 8 := by decide
  rw [← hm, opField_and, hmask r hr, BitVec.and_allOnes]

/-- The rows' `op` values differ. -/
theorem row_eq_of_opField_eq (h₁ : r₁ ∈ opcodeTable) (h₂ : r₂ ∈ opcodeTable)
    (hop : opField r₁.pattern = opField r₂.pattern) : r₁ = r₂ :=
  List.inj_on_of_nodup_map (f := fun r => opField r.pattern) (by decide) h₁ h₂ hop

theorem row_eq_of_match (h₁ : r₁ ∈ opcodeTable) (h₂ : r₂ ∈ opcodeTable)
    (hm₁ : w &&& r₁.mask = r₁.pattern) (hm₂ : w &&& r₂.mask = r₂.pattern) : r₁ = r₂ :=
  row_eq_of_opField_eq h₁ h₂ ((opField_of_match h₁ hm₁).symm.trans (opField_of_match h₂ hm₂))

theorem OpcodeRow.matches_iff : r.matches w = true ↔ w &&& r.mask = r.pattern := beq_iff_eq

/-- Decode answers the command of a row that matches, or an error where none does. -/
theorem decode_cases (w : Word) :
    (∃ r ∈ opcodeTable, w &&& r.mask = r.pattern ∧ decode w = .ok (r.build w)) ∨
    ((∀ r ∈ opcodeTable, w &&& r.mask ≠ r.pattern) ∧ ∃ e, decode w = .error e) := by
  cases hfind : opcodeTable.find? (·.matches w) with
  | some r =>
    have hmatch := List.find?_some hfind
    exact .inl ⟨r, List.mem_of_find?_eq_some hfind, OpcodeRow.matches_iff.1 hmatch,
      by rw [decode, hfind]⟩
  | none =>
    refine .inr ⟨fun r hr hm => ?_, illegalReason w, by rw [decode, hfind]⟩
    exact List.find?_eq_none.1 hfind r hr (OpcodeRow.matches_iff.2 hm)

theorem decode_of_match (hr : r ∈ opcodeTable) (hm : w &&& r.mask = r.pattern) :
    decode w = .ok (r.build w) := by
  rcases decode_cases w with ⟨r', hr', hm', hd⟩ | ⟨hnone, _⟩
  · rwa [row_eq_of_match hr' hr hm' hm] at hd
  · exact absurd hm (hnone r hr)

theorem decode_of_no_match (h : ∀ r ∈ opcodeTable, w &&& r.mask ≠ r.pattern) :
    ∃ e, decode w = .error e := by
  rcases decode_cases w with ⟨r, hr, hm, _⟩ | ⟨_, he⟩
  · exact absurd hm (h r hr)
  · exact he

/-! ### Encode after decode (R71, R73) -/

/-- A word whose `rsv` is 0 is packed from its other fields. -/
theorem packWord_of_fields {imm : BitVec 32} {idx : Handle} {op : BitVec 8}
    (himm : immField w = imm) (hrsv : rsvField w = 0) (hidx : idxField w = idx)
    (hop : opField w = op) : packWord imm idx op = w := by
  rw [packWord_eq, ← himm, ← hrsv, ← hidx, ← hop, wordOfFields_fields]

/-- A word that matches a row whose only operand is `idx`. -/
theorem packWord_of_match_index {op : BitVec 8}
    (hm : w &&& 0xFFFFFFFFFFFF00FF#64 = wordOfFields 0#32 0#16 0#8 op) :
    packWord 0 (idxField w) op = w := by
  obtain ⟨himm, hrsv, hop⟩ := (match_index_row w op).1 hm
  exact packWord_of_fields himm hrsv rfl hop

theorem encode_build_of_match (hr : r ∈ opcodeTable) (hm : w &&& r.mask = r.pattern) :
    encode (r.build w) = w := by
  simp only [opcodeTable, List.mem_cons, List.not_mem_nil, or_false] at hr
  rcases hr with rfl | rfl | rfl | rfl | rfl | rfl | rfl | rfl
  · obtain ⟨himm, hrsv, hop⟩ := (match_polarity_row w 0x01#8).1 hm
    have hpol := imm_polarity _ himm
    rw [← polField_eq] at hpol
    exact packWord_of_fields hpol hrsv rfl hop
  · exact packWord_of_match_index hm
  · exact packWord_of_match_index hm
  · exact packWord_of_match_index hm
  · exact packWord_of_match_index hm
  · exact ((match_whole_row w _).1 hm).symm
  · obtain ⟨hrsv, hop⟩ := (match_period_row w 0x11#8).1 hm
    exact packWord_of_fields rfl hrsv rfl hop
  · exact ((match_whole_row w _).1 hm).symm

end

/-- Settles O2: the word matches the row it was decoded by, and each row's command is encoded with the row's pattern and the word's own operands. -/
theorem encodeOfDecodeIsTheWord : Obligations.EncodeOfDecodeIsTheWord := by
  intro w i h
  rcases decode_cases w with ⟨r, hr, hm, hd⟩ | ⟨_, e, he⟩
  · obtain rfl := Except.ok.inj (hd.symm.trans h)
    exact encode_build_of_match hr hm
  · cases he.symm.trans h

/-! ### Decode after encode (R71, R72, R75) -/

theorem imm_polarity_clear (pol : Bool) :
    BitVec.zeroExtend 32 (BitVec.ofBool pol) &&& 0xFFFFFFFE#32 = 0#32 := by
  revert pol; decide

theorem decodeFields_encode (i : Instr) : decodeFields (encode i) = some i := by
  cases i with
  | fltInit f pol => simp [decodeFields, encode, packWord_eq, polField_eq, imm_polarity_clear]
  | fltAdv f => simp [decodeFields, encode, packWord_eq]
  | fltAct f => simp [decodeFields, encode, packWord_eq]
  | fltCrise f => simp [decodeFields, encode, packWord_eq]
  | fltCfall f => simp [decodeFields, encode, packWord_eq]
  | schInst => decide
  | schReg h P => simp [decodeFields, encode, packWord_eq]
  | schTick => decide

/-- Settles O1: the word of each command has the fields that its row asks for, and its operands in them. -/
theorem decodeOfEncodeIsTheCommand : Obligations.DecodeOfEncodeIsTheCommand :=
  fun i => (decode_ok_iff _ i).2 (decodeFields_encode i)

/-- Settles O5, by evaluation of the twelve words. -/
theorem tableWordsDecode : Obligations.TableWordsDecode := by
  unfold Obligations.TableWordsDecode
  decide

/-! ### The illegal words (R76) -/

theorem immField_extract_high (w : Word) :
    (immField w).extractLsb' 1 31 = w.extractLsb' 33 31 := by
  apply BitVec.eq_of_getLsbD_eq
  intro i hi
  have h32 : 1 + i < 32 := by omega
  simp [immField, h32, ← Nat.add_assoc]

/-- The mask of FLT_INIT leaves `imm[31:1]`, which are bits 63:33 of the word. -/
theorem immField_and_mask_eq_zero_iff (w : Word) :
    immField w &&& 0xFFFFFFFE#32 = 0#32 ↔ w.extractLsb' 33 31 = 0#31 := by
  rw [← immField_extract_high]
  constructor
  · intro h
    rw [imm_polarity _ h]
    generalize (immField w).getLsbD 0 = pol
    revert pol; decide
  · intro h
    apply BitVec.eq_of_getLsbD_eq
    intro i hi
    cases i with
    | zero => simp
    | succ j =>
      have hbit : (immField w).getLsbD (j + 1) = false := by
        have hj := congrArg (·.getLsbD j) h
        simpa [Nat.lt_of_succ_lt_succ hi, Nat.add_comm 1 j] using hj
      rw [BitVec.getLsbD_and, hbit, Bool.false_and, BitVec.getLsbD_zero]

/-- R76's list of illegal words: each opcode of the table asks for its own unused fields to be 0, and every command for `rsv`. -/
theorem decodeFields_eq_none_iff (w : Word) : decodeFields w = none ↔
    (opField w ∉ [0x01#8, 0x02#8, 0x03#8, 0x04#8, 0x05#8, 0x10#8, 0x11#8, 0x12#8] ∨
      rsvField w ≠ 0#16 ∨
      (opField w ∈ [0x02#8, 0x03#8, 0x04#8, 0x05#8, 0x10#8, 0x12#8] ∧ immField w ≠ 0#32) ∨
      (opField w = 0x01#8 ∧ w.extractLsb' 33 31 ≠ 0#31) ∨
      (opField w ∈ [0x10#8, 0x12#8] ∧ idxField w ≠ 0#8)) := by
  by_cases hrsv : rsvField w = 0#16
  · by_cases hop : opField w ∈ [0x01#8, 0x02#8, 0x03#8, 0x04#8, 0x05#8, 0x10#8, 0x11#8, 0x12#8]
    · simp only [List.mem_cons, List.not_mem_nil, or_false] at hop
      rcases hop with h | h | h | h | h | h | h | h <;>
        simp [decodeFields, hrsv, h, immField_and_mask_eq_zero_iff, ← not_and_or]
    · simp only [List.mem_cons, List.not_mem_nil, or_false, not_or] at hop
      simp [decodeFields, hop]
  · simp [decodeFields, hrsv]

end Sys2Proof

namespace Sys2Proof.Machine

/-! ### One step with a word (R75, R76, R81) -/

/-- What a running block does with an illegal word, as a change of its registers (R76, R182). -/
theorem step_illegal_faulted {s : State} {a : Agent} {w : Word} {rest : List Input}
    (hin : s.inputs = .command a w :: rest) (hrun : s.faultCode = 0)
    (he : ∃ e, decode w = .error e) : step s = .next { s.faulted 0x1 w with inputs := rest } := by
  obtain ⟨e, he⟩ := he
  exact step_illegal hin rfl hrun he

/-- Settles O3: the mask of a matching row shows its `op`, which no other row has. -/
theorem atMostOneRowMatches : Obligations.AtMostOneRowMatches := fun _ =>
  ⟨fun _ h₁ _ h₂ hm₁ hm₂ => congrArg OpcodeRow.mnemonic (row_eq_of_match h₁ h₂ hm₁ hm₂),
    fun _ hr hm => decode_of_match hr hm,
    fun hnone => ⟨decode_of_no_match hnone, fun _ _ _ hin hrun =>
      step_illegal_faulted hin hrun (decode_of_no_match hnone)⟩⟩

/-- Settles O4: decode by fields answers no command exactly in R76's cases, and the step of such a word is a fault. -/
theorem illegalWordsFaultWithNoOtherEffect : Obligations.IllegalWordsFaultWithNoOtherEffect :=
  fun w => ⟨(decode_error_iff w).trans (decodeFields_eq_none_iff w),
    fun _ _ _ e hin hrun he => step_illegal_faulted hin hrun ⟨e, he⟩⟩

/-- Settles O15: the agent is no part of the word that an input presents. -/
theorem agentsAreAlike : Obligations.AgentsAreAlike :=
  fun _ _ _ _ rest => step_eq_of_word rest rfl rfl

/-! ### The assembler (R79, R80) -/

theorem assemble_of_wellFormed {l : AsmLine} (h : l.wellFormed = true) :
    assemble l = .ok ((asmExpand l).map encode) := if_pos h

theorem assemble_of_not_wellFormed {l : AsmLine} (h : l.wellFormed = false) :
    assemble l = .error .outOfRange := by
  simp [assemble, h]

theorem map_decode_map_encode (is : List Instr) : (is.map encode).map decode = is.map .ok := by
  rw [List.map_map]
  exact List.map_congr_left fun i _ => decodeOfEncodeIsTheCommand i

theorem instr_wellFormed (i : Instr) : i.WellFormed := by
  cases i with
  | fltInit f pol => exact (Laws.Encoding.fltInit f pol).1
  | fltAdv f => exact (Laws.Encoding.fltAdv f).1
  | fltAct f => exact (Laws.Encoding.fltAct f).1
  | fltCrise f => exact (Laws.Encoding.fltCrise f).1
  | fltCfall f => exact (Laws.Encoding.fltCfall f).1
  | schInst => exact Laws.Encoding.schInst.1
  | schReg h P => exact (Laws.Encoding.schReg h P).1
  | schTick => exact Laws.Encoding.schTick.1

/-- The line of a command stands for that command alone. -/
theorem asmExpand_asmLine (i : Instr) : asmExpand i.asmLine = [i] := by
  cases i with
  | fltInit f pol => cases pol <;> simp [Instr.asmLine, asmExpand]
  | schReg h P => simp [Instr.asmLine, asmExpand]
  | fltAdv f | fltAct f | fltCrise f | fltCfall f => simp [Instr.asmLine, asmExpand]
  | schInst | schTick => rfl

/-- Settles O53: a line in range assembles to the encoded commands of its expansion, which decode to them (O1). -/
theorem assembledWordsDecode : Obligations.AssembledWordsDecode := by
  refine ⟨fun l h => ⟨_, assemble_of_wellFormed h, map_decode_map_encode _⟩,
    fun _ => assemble_of_not_wellFormed, fun i => ⟨instr_wellFormed i, ?_⟩⟩
  rw [assemble_of_wellFormed (instr_wellFormed i), asmExpand_asmLine]
  rfl

theorem encode_schTick : encode .schTick = 0x0000000000000012#64 := by decide

/-- Settles O54: with `f` in range each line and its expansion are in range, and stand for the same commands. -/
theorem pseudoInstructionsExpand : Obligations.PseudoInstructionsExpand := by
  intro f n hf
  have hadv : (AsmLine.fltAdv f).wellFormed = true := decide_eq_true hf
  have hadvn : (AsmLine.fltAdvn f n).wellFormed = true := decide_eq_true hf
  refine ⟨?_, ?_, ?_, _, assemble_of_wellFormed hadv, ?_⟩
  · simp [assemble, AsmLine.wellFormed, asmExpand]
  · simp [assemble, AsmLine.wellFormed, asmExpand]
  · rw [assemble_of_wellFormed rfl, asmExpand, List.map_replicate, encode_schTick]
  · rw [assemble_of_wellFormed hadvn, asmExpand, List.map_replicate]

end Sys2Proof.Machine
end

section
/-! PROOFS. The filters of spec/40_debounce_filter.md. The words of the filter commands and what each does (R101-R106), then the laws of `DebounceFilter.advance`: when the level moves (R107-R109), what sets a latch (R110-R112), and that bounce is rejected (R113). -/

namespace Sys2Proof

/-! ### The words of one row (R72, R73, R75) -/

theorem encoding_statement (i : Instr) : Laws.Encoding.Statement i :=
  match i with
  | .fltInit f pol => Laws.Encoding.fltInit f pol
  | .fltAdv f => Laws.Encoding.fltAdv f
  | .fltAct f => Laws.Encoding.fltAct f
  | .fltCrise f => Laws.Encoding.fltCrise f
  | .fltCfall f => Laws.Encoding.fltCfall f
  | .schInst => Laws.Encoding.schInst
  | .schReg h P => Laws.Encoding.schReg h P
  | .schTick => Laws.Encoding.schTick

theorem opField_encode (i : Instr) : opField (encode i) = Laws.Encoding.opcode i := by
  obtain ⟨_, hop, _⟩ := encoding_statement i
  exact hop

section
variable {w : Word} {r : OpcodeRow}

/-- The words that spell a command are those that match the row of its opcode and carry its operands. -/
theorem decode_ok_iff_row {i : Instr} (hr : r ∈ opcodeTable)
    (hop : Laws.Encoding.opcode i = opField r.pattern) :
    decode w = .ok i ↔ w &&& r.mask = r.pattern ∧ i = r.build w := by
  constructor
  · intro h
    rcases decode_cases w with ⟨r', hr', hm, hd⟩ | ⟨_, e, he⟩
    · have hop' : opField r'.pattern = opField r.pattern := by
        rw [← opField_of_match hr' hm, ← hop, ← opField_encode, encodeOfDecodeIsTheWord w i h]
      obtain rfl := row_eq_of_opField_eq hr' hr hop'
      exact ⟨hm, Except.ok.inj (h.symm.trans hd)⟩
    · cases he.symm.trans h
  · rintro ⟨hm, rfl⟩
    exact decode_of_match hr hm

/-- The words of a row whose only operand is `idx`. -/
theorem decode_ok_iff_index_row {c : Handle → Instr} {f : Handle} (hr : r ∈ opcodeTable)
    (hbuild : r.build = fun w => c (idxField w)) (hinj : c.Injective)
    (hop : Laws.Encoding.opcode (c f) = opField r.pattern) :
    decode w = .ok (c f) ↔ w &&& r.mask = r.pattern ∧ f = w.extractLsb' 8 8 := by
  rw [decode_ok_iff_row hr hop, hbuild, hinj.eq_iff, idxField]

end

end Sys2Proof

namespace Sys2Proof.Machine

/-! ### What a filter command leaves unchanged (R100, R102-R106) -/

section
variable {s : State} {f : Handle} {i : Instr}

theorem State.withFilter_badIndex (n : Bool) (effect : DebounceFilter → State)
    (h : s.nf ≤ f.toNat) : s.withFilter f n i effect = .next (s.faulted 0x2 (encode i)) := by
  rw [State.withFilter, State.checkFilter_badIndex n h]
  rfl

theorem State.withFilter_unconstructed (effect : DebounceFilter → State) (hlt : f.toNat < s.nf)
    (hc : (s.filter f).constructed = false) :
    s.withFilter f true i effect = .next (s.faulted 0x3 (encode i)) := by
  rw [State.withFilter, State.checkFilter_unconstructed hlt hc]
  rfl

/-- Writing one filter and answering leaves all else of the block and of its agents as it was. -/
theorem State.setFilter_answer_frame (s : State) (f : Handle) (x : DebounceFilter) (r : Bool) :
    SameFiltersBut f s ((s.setFilter f x).answer r) ∧
    SameScheduler s ((s.setFilter f x).answer r) ∧
    SameFaultRegs s ((s.setFilter f x).answer r) ∧ SameAgents s ((s.setFilter f x).answer r) :=
  ⟨⟨s.setFilter_nf f x, fun _ hg => s.setFilter_filter_ne hg x⟩, ⟨rfl, rfl, rfl⟩, ⟨rfl, rfl⟩,
    ⟨rfl, rfl, rfl⟩⟩

/-- What a consume answers and changes (R105, R106). -/
theorem State.withFilter_consume {latch : DebounceFilter → Bool}
    {clear : DebounceFilter → DebounceFilter} (hlt : f.toNat < s.nf)
    (hc : (s.filter f).constructed = true) :
    ∃ t, s.withFilter f true i (s.consume f latch clear) = .next t ∧
      t.res = latch (s.filter f) ∧ t.filter f = clear (s.filter f) ∧ t.trace = [] ∧
      SameFiltersBut f s t ∧ SameScheduler s t ∧ SameFaultRegs s t ∧ SameAgents s t :=
  ⟨_, State.withFilter_constructed true _ hlt hc, rfl, State.setFilter_filter_self hlt _, rfl,
    s.setFilter_answer_frame f _ _⟩

/-- Two consumes in a row, whether the block is halted or not: the latch, then 0 (R111). -/
theorem State.withFilter_consume_twice {latch : DebounceFilter → Bool}
    {clear : DebounceFilter → DebounceFilter}
    (hconstructed : ∀ x, (clear x).constructed = x.constructed)
    (hlatch : ∀ x, latch (clear x) = false) (hlt : f.toNat < s.nf)
    (hc : (s.filter f).constructed = true) :
    ∃ t u, s.withFilter f true i (s.consume f latch clear) = .next t ∧
      t.withFilter f true i (t.consume f latch clear) = .next u ∧
      t.res = latch (s.filter f) ∧ u.res = false := by
  obtain ⟨t, ht, hres, hcleared, _, ⟨hnf, _⟩, _⟩ :=
    State.withFilter_consume (i := i) (latch := latch) (clear := clear) hlt hc
  have hc' : (t.filter f).constructed = true := by rw [hcleared, hconstructed, hc]
  obtain ⟨u, hu, hres', _⟩ :=
    State.withFilter_consume (i := i) (latch := latch) (clear := clear) (hnf ▸ hlt) hc'
  exact ⟨t, u, ht, hu, hres, by rw [hres', hcleared, hlatch]⟩

end

/-! ### The filter commands (R101-R106) -/

theorem execFltCrise_eq (f : Handle) (s : State) : exec (.fltCrise f) s =
    s.withFilter f true (.fltCrise f) (s.consume f (·.rise) ({ · with rise := false })) := rfl

theorem execFltCfall_eq (f : Handle) (s : State) : exec (.fltCfall f) s =
    s.withFilter f true (.fltCfall f) (s.consume f (·.fall) ({ · with fall := false })) := rfl

/-- Settles O18: the row of FLT_INIT, and one filter written. -/
theorem fltInitConstructsFilter : Obligations.FltInitConstructsFilter := by
  refine ⟨fun w f pol => ?_, fun f pol s => ?_⟩
  · rw [decode_ok_iff_row (r := opcodeTable[0]) (List.getElem_mem _) rfl]
    change _ ∧ Instr.fltInit f pol = .fltInit (idxField w) (polField w) ↔ _
    rw [Instr.fltInit.injEq]
    rfl
  · rw [exec, execFltInit]
    refine ⟨State.withFilter_badIndex false _, fun hlt => ?_⟩
    refine ⟨(s.setFilter f (DebounceFilter.init pol)).answer false, ?_, ?_, rfl, rfl,
      s.setFilter_answer_frame f _ _⟩
    · rw [State.withFilter, State.checkFilter_init hlt]
    · rw [State.answer_filter, State.setFilter_filter_self hlt]
      cases pol <;> rfl

/-- Settles O20: FLT_ADV is FilterAdvance, which draws once and writes one filter. -/
theorem fltAdvAdvancesOnce : Obligations.FltAdvAdvancesOnce := by
  refine ⟨fun w f => decode_ok_iff_index_row (r := opcodeTable[1]) (List.getElem_mem _) rfl
    (fun _ _ => Instr.fltAdv.inj) rfl, fun f s => ?_⟩
  rw [exec, execFltAdv]
  refine ⟨State.withFilter_badIndex true _, State.withFilter_unconstructed _, fun hlt hc =>
    ⟨(s.filterAdvance f).answer false, State.withFilter_constructed true _ hlt hc,
      rfl, rfl, rfl, rfl, rfl, rfl, ?_⟩⟩
  obtain ⟨hfilters, hsched, hfault, _⟩ := s.afterDraw.setFilter_answer_frame f
    ((s.filter f).advance (s.nextSample f)) false
  exact ⟨hfilters, hsched, hfault⟩

/-- Settles O21: FLT_ACT writes only its answer. -/
theorem fltActReportsPressed : Obligations.FltActReportsPressed := by
  refine ⟨fun w f => decode_ok_iff_index_row (r := opcodeTable[2]) (List.getElem_mem _) rfl
    (fun _ _ => Instr.fltAct.inj) rfl, fun f s => ?_⟩
  rw [exec, execFltAct]
  refine ⟨State.withFilter_badIndex true _, State.withFilter_unconstructed _, fun hlt hc => ?_⟩
  rw [State.withFilter_constructed true _ hlt hc, State.answer]
  simp [beq_eq_decide]

/-- Settles O22: FLT_CRISE consumes the rising latch. -/
theorem fltCriseReadsAndClears : Obligations.FltCriseReadsAndClears := by
  refine ⟨fun w f => decode_ok_iff_index_row (r := opcodeTable[3]) (List.getElem_mem _) rfl
    (fun _ _ => Instr.fltCrise.inj) rfl, fun f s => ?_⟩
  rw [execFltCrise_eq]
  exact ⟨State.withFilter_badIndex true _, State.withFilter_unconstructed _,
    State.withFilter_consume⟩

/-- Settles O23: FLT_CFALL consumes the falling latch. -/
theorem fltCfallReadsAndClears : Obligations.FltCfallReadsAndClears := by
  refine ⟨fun w f => decode_ok_iff_index_row (r := opcodeTable[4]) (List.getElem_mem _) rfl
    (fun _ _ => Instr.fltCfall.inj) rfl, fun f s => ?_⟩
  rw [execFltCfall_eq]
  exact ⟨State.withFilter_badIndex true _, State.withFilter_unconstructed _,
    State.withFilter_consume⟩

theorem riseAfter_eq_ite (prev now old : Bool) :
    riseAfter prev now old = if now = true ∧ prev = false then true else old := by
  simp [riseAfter]

theorem fallAfter_eq_ite (prev now old : Bool) :
    fallAfter prev now old = if now = false ∧ prev = true then true else old := by
  simp [fallAfter]

/-- Settles O19: FilterAdvance is `advance` of filter `f` with the sample drawn. -/
theorem filterAdvanceShiftsAndEvaluates : Obligations.FilterAdvanceShiftsAndEvaluates := by
  intro f s b hlt
  refine ⟨fun rest hdraws => ⟨State.nextSample_cons hdraws f, ?_⟩,
    fun hdraws => State.nextSample_nil hdraws f, ?_⟩
  · rw [State.filterAdvance_rawDraws, hdraws, List.tail_cons]
  · rintro rfl
    rw [State.filterAdvance_filter_self hlt]
    exact ⟨rfl, shiftIn_zero _ _, fun k hk => shiftIn_succ _ _ hk, rfl, riseAfter_eq_ite _ _ _,
      fallAfter_eq_ite _ _ _, rfl, rfl, rfl⟩

/-! ### When the level moves (R107-R109) -/

theorem settledLevel_ne_iff (w : Byte) (old : Bool) :
    settledLevel w old ≠ old ↔ w = unanimousWindow (!old) := by
  rcases settledLevel_cases w old with ⟨rfl, hs⟩ | ⟨rfl, hs⟩ | ⟨htrue, hfalse, hs⟩
  · rw [hs]; revert old; decide
  · rw [hs]; revert old; decide
  · cases old <;> simp [hs, htrue, hfalse]

section
variable (x : DebounceFilter) (b : Bool)

/-- An advance changes the level exactly when it makes the window unanimous at the other one (R107, R108). -/
theorem DebounceFilter.advance_state_ne_iff :
    (x.advance b).state ≠ x.state ↔ (x.advance b).window = unanimousWindow (!x.state) := by
  rw [DebounceFilter.advance_state, settledLevel_ne_iff]

variable {x b}

theorem DebounceFilter.setsRise_eq_false_of_state_eq (hprev : x.prevState = x.state)
    (h : (x.advance b).state = x.state) : x.setsRise b = false := by
  rw [DebounceFilter.setsRise, h, hprev, Bool.and_not_self]

theorem DebounceFilter.setsFall_eq_false_of_state_eq (hprev : x.prevState = x.state)
    (h : (x.advance b).state = x.state) : x.setsFall b = false := by
  rw [DebounceFilter.setsFall, h, hprev, Bool.not_and_self]

/-- An advance that keeps the level keeps both latches (R107). -/
theorem DebounceFilter.advance_latches_of_state_eq (hprev : x.prevState = x.state)
    (h : (x.advance b).state = x.state) :
    (x.advance b).rise = x.rise ∧ (x.advance b).fall = x.fall := by
  rw [DebounceFilter.advance_rise, DebounceFilter.setsRise_eq_false_of_state_eq hprev h,
    DebounceFilter.advance_fall, DebounceFilter.setsFall_eq_false_of_state_eq hprev h,
    Bool.or_false, Bool.or_false]
  exact ⟨rfl, rfl⟩

end

theorem unanimousWindow_not (level : Bool) :
    unanimousWindow (!level) = if level then 0x00#8 else 0xFF#8 := by
  cases level <;> rfl

/-- Settles O27: the level moves exactly on the window unanimous at the other level, and without a move no latch is set. -/
theorem levelChangesOnlyOnUnanimity : Obligations.LevelChangesOnlyOnUnanimity := by
  intro x b hprev
  rw [← unanimousWindow_not]
  refine ⟨(x.advance_state_ne_iff b).1, fun hw => ?_⟩
  have hstate : (x.advance b).state = x.state :=
    not_not.1 (mt (x.advance_state_ne_iff b).1 hw)
  exact ⟨hstate, DebounceFilter.advance_latches_of_state_eq hprev hstate⟩

/-- Settles O28: a window is unanimous when its 8 bits are. -/
theorem unanimityNotMajority : Obligations.UnanimityNotMajority :=
  fun x b => (x.advance_state_ne_iff b).trans (window_eq_unanimous _ _)

/-- After `n` samples of one level the window holds them below what it held before. -/
theorem DebounceFilter.advances_replicate_window_bit (x : DebounceFilter) (n : Nat) (v : Bool)
    {k : Nat} (hk : k < 8) : (x.advances (List.replicate n v)).window.getLsbD k =
      if k < n then v else x.window.getLsbD (k - n) := by
  rw [x.advances_window_bit _ hk, List.reverse_replicate, List.length_replicate,
    List.getD_eq_getElem?_getD, List.getElem?_replicate]
  split <;> rfl

section
variable {x : DebounceFilter} {m : Nat} (hnew : ∀ k < m, x.window.getLsbD k = !x.state)
  (hold : x.window.getLsbD m = x.state)
include hnew hold

/-- With exactly `m` newest samples of the other level in the window, `n` more make it unanimous when they are 8 together. -/
theorem DebounceFilter.advances_replicate_window_iff (n : Nat) :
    (x.advances (List.replicate n (!x.state))).window = unanimousWindow (!x.state) ↔
      8 ≤ m + n := by
  have hbit := fun k (hk : k < 8) => x.advances_replicate_window_bit n (!x.state) hk
  rw [window_eq_unanimous]
  constructor
  · intro hw
    by_contra hlt
    have hlast := hbit (m + n) (by omega)
    rw [hw _ (by omega), if_neg (by omega), Nat.add_sub_cancel, hold] at hlast
    exact Bool.not_ne_self _ hlast
  · intro hle k hk
    rw [hbit k hk]
    split
    · rfl
    · exact hnew _ (by omega)

theorem DebounceFilter.advances_replicate_state (hm : m < 8) (n : Nat) :
    (x.advances (List.replicate n (!x.state))).state =
      if m + n < 8 then x.state else !x.state := by
  induction n with
  | zero => simp [hm]
  | succ n ih =>
    have hw := DebounceFilter.advances_replicate_window_iff hnew hold (n + 1)
    rw [List.replicate_succ', DebounceFilter.advances_snoc] at hw ⊢
    by_cases hlt : m + (n + 1) < 8
    · rw [if_pos (by omega)] at ih
      rw [if_pos hlt]
      by_contra hne
      have hmoved := (DebounceFilter.advance_state_ne_iff _ _).1 fun e => hne (e.trans ih)
      rw [ih, hw] at hmoved
      omega
    · rw [if_neg hlt, DebounceFilter.advance_state, hw.2 (by omega), settledLevel_unanimous]

end

/-- Settles O30: a window after FLT_INIT has no sample of the active level in it. -/
theorem levelChangesAtTheEighthSample : Obligations.LevelChangesAtTheEighthSample := by
  refine ⟨fun x m n hm hnew hold => DebounceFilter.advances_replicate_state hnew hold hm n,
    fun pol n => ?_⟩
  have hstart : (DebounceFilter.init pol).window.getLsbD 0 = !pol :=
    (window_eq_unanimous _ _).1 rfl 0 (by decide)
  have h := DebounceFilter.advances_replicate_state (x := .init pol)
    (fun k hk => absurd hk k.not_lt_zero) hstart (by decide) n
  rw [Nat.zero_add] at h
  simpa [DebounceFilter.init] using h

/-! ### What sets a latch (R110-R112) -/

theorem DebounceFilter.not_setsRise_and_setsFall (x : DebounceFilter) (b : Bool) :
    ¬ (x.setsRise b = true ∧ x.setsFall b = true) := by
  rw [DebounceFilter.setsRise, DebounceFilter.setsFall]
  cases (x.advance b).state <;> simp

/-- A setting of `rise` is the level going up by one, a setting of `fall` the level going down by one. -/
theorem DebounceFilter.setsRise_add_state {x : DebounceFilter} (hprev : x.prevState = x.state)
    (b : Bool) :
    (x.setsRise b).toNat + x.state.toNat = (x.setsFall b).toNat + (x.advance b).state.toNat := by
  rw [DebounceFilter.setsRise, DebounceFilter.setsFall, hprev]
  cases (x.advance b).state <;> cases x.state <;> rfl

theorem DebounceFilter.riseSettings_add_state {x : DebounceFilter} (hprev : x.prevState = x.state)
    (l : List Bool) : x.riseSettings l + x.state.toNat =
      x.fallSettings l + (x.advances l).state.toNat := by
  induction l generalizing x with
  | nil => rfl
  | cons b l ih =>
    have hhead := DebounceFilter.setsRise_add_state hprev b
    have htail := ih (x.advance_prevState b)
    rw [DebounceFilter.riseSettings, DebounceFilter.fallSettings, DebounceFilter.advances_cons]
    omega

/-- Settles O31: each setting is one move of the level. -/
theorem latchSettingsAlternate : Obligations.LatchSettingsAlternate :=
  ⟨fun x b => ⟨x.not_setsRise_and_setsFall b, x.advance_rise b, x.advance_fall b⟩,
    fun _ samples hprev => DebounceFilter.riseSettings_add_state hprev samples⟩

theorem decide_toNat_add_pos (b : Bool) (n : Nat) :
    decide (0 < b.toNat + n) = (b || decide (0 < n)) := by
  cases b <;> simp

theorem DebounceFilter.advances_rise (x : DebounceFilter) (l : List Bool) :
    (x.advances l).rise = (x.rise || decide (0 < x.riseSettings l)) := by
  induction l generalizing x with
  | nil => simp [DebounceFilter.riseSettings]
  | cons b l ih =>
    rw [DebounceFilter.advances_cons, ih, DebounceFilter.advance_rise, DebounceFilter.riseSettings,
      decide_toNat_add_pos, Bool.or_assoc]

theorem DebounceFilter.advances_fall (x : DebounceFilter) (l : List Bool) :
    (x.advances l).fall = (x.fall || decide (0 < x.fallSettings l)) := by
  induction l generalizing x with
  | nil => simp [DebounceFilter.fallSettings]
  | cons b l ih =>
    rw [DebounceFilter.advances_cons, ih, DebounceFilter.advance_fall, DebounceFilter.fallSettings,
      decide_toNat_add_pos, Bool.or_assoc]

/-- Settles O32: a latch is the disjunction of its settings, and a consume clears it. -/
theorem latchesPersistAndDoNotCount : Obligations.LatchesPersistAndDoNotCount :=
  ⟨fun x samples => ⟨x.advances_rise samples, x.advances_fall samples⟩,
    fun _ _ => State.withFilter_consume_twice (latch := (·.rise))
      (clear := ({ · with rise := false })) (fun _ => rfl) (fun _ => rfl),
    fun _ _ => State.withFilter_consume_twice (latch := (·.fall))
      (clear := ({ · with fall := false })) (fun _ => rfl) (fun _ => rfl)⟩

section
variable {x : DebounceFilter} {b : Bool}

/-- An advance that takes the level to 1 sets `rise` and leaves `fall`. -/
theorem DebounceFilter.advance_to_high (hprev : x.prevState = x.state)
    (hne : (x.advance b).state ≠ x.state) (hhigh : (x.advance b).state = true) :
    x.setsRise b = true ∧ (x.advance b).rise = true ∧ (x.advance b).fall = x.fall := by
  rw [hhigh] at hne
  have hlow : x.prevState = false := by rw [hprev]; exact Bool.eq_false_iff.2 hne.symm
  simp [DebounceFilter.advance_rise, DebounceFilter.advance_fall, DebounceFilter.setsRise,
    DebounceFilter.setsFall, hhigh, hlow]

/-- An advance that takes the level to 0 sets `fall` and leaves `rise`. -/
theorem DebounceFilter.advance_to_low (hprev : x.prevState = x.state)
    (hne : (x.advance b).state ≠ x.state) (hlow : (x.advance b).state = false) :
    x.setsFall b = true ∧ (x.advance b).fall = true ∧ (x.advance b).rise = x.rise := by
  rw [hlow] at hne
  have hhigh : x.prevState = true := by rw [hprev]; exact Bool.eq_true_of_not_eq_false hne.symm
  simp [DebounceFilter.advance_rise, DebounceFilter.advance_fall, DebounceFilter.setsRise,
    DebounceFilter.setsFall, hhigh, hlow]

end

/-- Settles O33: the latch set depends on the raw level reached; polarity only says whether that is a press. -/
theorem edgesAreOfTheRawLevel : Obligations.EdgesAreOfTheRawLevel := by
  intro x b hprev hne
  refine ⟨fun hlevel hpol => ?_, fun hlevel hpol => ?_, fun hlevel hpol => ?_,
    fun hlevel hpol => ?_⟩ <;> rw [hpol] at hlevel
  · exact DebounceFilter.advance_to_high hprev hne hlevel
  · exact DebounceFilter.advance_to_low hprev hne (Bool.eq_false_iff.2 hlevel)
  · exact DebounceFilter.advance_to_low hprev hne hlevel
  · exact DebounceFilter.advance_to_high hprev hne (Bool.eq_true_of_not_eq_false hlevel)

/-! ### Bounce (R113) -/

theorem DebounceFilter.advances_prevState {x : DebounceFilter} (hprev : x.prevState = x.state)
    (l : List Bool) : (x.advances l).prevState = (x.advances l).state := by
  induction l generalizing x with
  | nil => exact hprev
  | cons b l ih => exact ih (x.advance_prevState b)

/-- After FLT_INIT a window unanimous at the active level is eight samples of it. -/
theorem DebounceFilter.last_eight_of_window_active {pol : Bool} {l : List Bool}
    (hw : ((DebounceFilter.init pol).advances l).window = unanimousWindow pol) :
    8 ≤ l.length ∧ ∀ b ∈ l.drop (l.length - 8), b = pol := by
  have hsample : ∀ k < 8, l.reverse[k]? = some pol := by
    intro k hk
    have hbit := windowHoldsTheLastEightSamples pol l k hk
    rw [(window_eq_unanimous _ _).1 hw k hk, List.getD_eq_getElem?_getD] at hbit
    cases h : l.reverse[k]? with
    | some b => rw [h] at hbit; rw [hbit, Option.getD_some]
    | none => rw [h] at hbit; exact absurd hbit.symm (Bool.not_ne_self pol)
  refine ⟨?_, fun b hb => ?_⟩
  · obtain ⟨hlen, _⟩ := List.getElem?_eq_some_iff.1 (hsample 7 (by decide))
    rwa [List.length_reverse] at hlen
  · rw [← List.mem_reverse, List.reverse_drop] at hb
    obtain ⟨k, hk, rfl⟩ := List.mem_take_iff_getElem.1 hb
    exact Option.some.inj ((List.getElem?_eq_getElem (by omega)).symm.trans (hsample k (by omega)))

/-- No 8 consecutive samples are all at level `pol`. -/
def Bounces (pol : Bool) (samples : List Bool) : Prop :=
  ∀ i, i + 8 ≤ samples.length → ∃ b ∈ (samples.drop i).take 8, b ≠ pol

theorem Bounces.of_append {pol : Bool} {l m : List Bool} (h : Bounces pol (l ++ m)) :
    Bounces pol l := by
  intro i hi
  have hdrop : ((l ++ m).drop i).take 8 = (l.drop i).take 8 := by
    rw [List.drop_append_of_le_length (by omega),
      List.take_append_of_le_length (by rw [List.length_drop]; omega)]
  rw [← hdrop]
  exact h i (by rw [List.length_append]; omega)

/-- Bounce never makes the window unanimous at the active level. -/
theorem Bounces.window_ne {pol : Bool} {l : List Bool} (h : Bounces pol l) :
    ((DebounceFilter.init pol).advances l).window ≠ unanimousWindow pol := by
  intro hw
  obtain ⟨hlen, hlast⟩ := DebounceFilter.last_eight_of_window_active hw
  obtain ⟨b, hb, hne⟩ := h (l.length - 8) (by omega)
  exact hne (hlast b (List.mem_of_mem_take hb))

/-- Settles O34: sample by sample, the level could leave the inactive one only on a window unanimous at the active one, and without a move no latch is set. -/
theorem bounceIsRejected : Obligations.BounceIsRejected := by
  intro pol samples hbounce
  change Bounces pol samples at hbounce
  induction samples using List.reverseRecOn with
  | nil => exact ⟨rfl, rfl, rfl⟩
  | append_singleton l b ih =>
    obtain ⟨hstate, hrise, hfall⟩ := ih hbounce.of_append
    have hw := hbounce.window_ne
    rw [DebounceFilter.advances_snoc] at hw ⊢
    have hkeep : (((DebounceFilter.init pol).advances l).advance b).state =
        ((DebounceFilter.init pol).advances l).state := by
      by_contra hne
      rw [← ne_eq, DebounceFilter.advance_state_ne_iff, hstate, Bool.not_not] at hne
      exact hw hne
    have hprev := DebounceFilter.advances_prevState (x := .init pol) rfl l
    obtain ⟨hrise', hfall'⟩ := DebounceFilter.advance_latches_of_state_eq hprev hkeep
    exact ⟨hkeep.trans hstate, hrise'.trans hrise, hfall'.trans hfall⟩

end Sys2Proof.Machine
end

section
/-! PROOFS. The scheduler commands of spec/41_task_scheduler.md. First each command's words and effect (R140-R143), then what every command does to the scheduler (R149, R150, R152): a slot in use moves on in a tick at which it is due, and never otherwise. So a slot's history is a function of the number of ticks alone, and the laws of firing (R144-R147) are facts about that function. -/

namespace Sys2Proof.Machine

/-! ### The commands (R140-R143) -/

/-- The one word of a row that fixes every bit. -/
theorem decode_ok_iff_fixed_row {w : Word} {r : OpcodeRow} {i : Instr} (hr : r ∈ opcodeTable)
    (hmask : r.mask = BitVec.allOnes 64) (hbuild : r.build = fun _ => i)
    (hop : Laws.Encoding.opcode i = opField r.pattern) : decode w = .ok i ↔ w = r.pattern := by
  rw [decode_ok_iff_row hr hop, hmask, BitVec.and_allOnes, hbuild]
  exact and_iff_left rfl

/-- Settles O36: SCH_INST's row fixes every bit of its word, and the command only answers. -/
theorem schInstAnswersHandleZero : Obligations.SchInstAnswersHandleZero :=
  ⟨fun w => decode_ok_iff_fixed_row (r := opcodeTable[5]) (List.getElem_mem _) rfl rfl rfl,
    fun s => rfl⟩

/-- The state a successful SCH_REG leaves (R141). -/
def State.register (s : State) (r : Handle × Tick) : State :=
  (s.addSlot { target := r.1, period := r.2, nextDue := r.2 }).answer true

section
variable {s : State} {h : Handle} {P : Tick}

theorem execSchReg_unconstructed (hlt : h.toNat < s.nf) (hc : (s.filter h).constructed = false) :
    exec (.schReg h P) s = .next (s.faulted 0x3 (encode (.schReg h P))) := by
  rw [exec, execSchReg, (checkTarget_some_iff s h .unconstructed).2 ⟨rfl, hlt, hc⟩]
  rfl

theorem execSchReg_full (hc : h.toNat < s.nf → (s.filter h).constructed = true)
    (hfull : s.count = s.cap) : exec (.schReg h P) s = .next (s.answer false) := by
  rw [exec, execSchReg, (checkTarget_none_iff s h).2 hc]
  exact if_pos hfull

theorem execSchReg_free (hc : h.toNat < s.nf → (s.filter h).constructed = true)
    (hfree : s.count < s.cap) : exec (.schReg h P) s = .next (s.register (h, P)) := by
  rw [exec, execSchReg, (checkTarget_none_iff s h).2 hc]
  exact if_neg hfree.ne

/-- A SCH_REG that answers 1 has added a slot. -/
theorem eq_register_of_execSchReg {t : State} (e : exec (.schReg h P) s = .next t)
    (hres : t.res = true) : s.count ≠ s.cap ∧ t = s.register (h, P) := by
  rcases execSchReg_cases e with ⟨_, _, rfl⟩ | ⟨_, _, rfl⟩ | ⟨_, hfree, rfl⟩
  · exact absurd hres Bool.false_ne_true
  · exact absurd hres Bool.false_ne_true
  · exact ⟨hfree, rfl⟩

end

/-- Settles O37: SCH_REG's row, and its three cases. -/
theorem schRegAddsSlotOrReportsFull : Obligations.SchRegAddsSlotOrReportsFull := by
  refine ⟨fun w h P => ?_, fun h P s => ⟨execSchReg_unconstructed, execSchReg_full, ?_⟩⟩
  · rw [decode_ok_iff_row (r := opcodeTable[6]) (List.getElem_mem _) rfl]
    change _ ∧ Instr.schReg h P = .schReg (idxField w) (immField w) ↔ _
    rw [Instr.schReg.injEq]
    rfl
  · intro hc hfree
    exact ⟨s.register (h, P), execSchReg_free hc hfree, List.getElem?_set_self hfree, rfl, rfl,
      rfl, List.length_set, fun j hj => List.getElem?_set_ne hj.symm, rfl, rfl, ⟨rfl, rfl⟩,
      ⟨rfl, rfl, rfl⟩⟩

theorem Slot.sub_nextDue_eq_zero_iff (x : Slot) (tick : Tick) :
    tick - x.nextDue = 0 ↔ x.nextDue = tick := by
  rw [← Slot.dueAt_iff, Slot.dueAt_eq, decide_eq_true_iff]

/-- Settles O38: `execSchTick_eq` with the model's test for a due slot. -/
theorem schTickFiresDueSlots : Obligations.SchTickFiresDueSlots := by
  refine ⟨fun w => decode_ok_iff_fixed_row (r := opcodeTable[7]) (List.getElem_mem _) rfl rfl rfl,
    fun s => ?_⟩
  simp only [Slot.sub_nextDue_eq_zero_iff]
  rw [execSchTick_eq, State.afterTick, State.countTick, State.withSlots_tickCounter,
    State.dispatches_tickCounter]
  rfl

/-- Settles O39: the strobe alone for an external unit, and a FilterAdvance after it for an internal filter. -/
theorem dispatchEmitsAndAdvances : Obligations.DispatchEmitsAndAdvances := by
  refine fun h s => ⟨State.dispatch_external, fun hlt => ?_⟩
  refine ⟨s.dispatch_trace h, ?_, ?_, ?_, s.dispatch_inputs h, s.dispatch_res h,
    ⟨s.dispatch_nf h, fun g => s.dispatch_filter_ne h⟩,
    ⟨s.dispatch_tickCounter h, s.dispatch_count h, s.dispatch_slots h⟩,
    ⟨s.dispatch_faultCode h, s.dispatch_faultCmd h⟩⟩
  all_goals rw [State.dispatch_internal hlt]; rfl

/-- Settles O40: the fields of `State.afterTick`; the dispatches keep what every advance keeps. -/
theorem schTickFrame : Obligations.SchTickFrame := by
  intro s
  refine ⟨s.afterTick, execSchTick_eq s, s.afterTick_trace, s.afterTick_res, s.afterTick_count,
    s.afterTick_nf, s.afterTick_cap, fun f hf => ?_, fun f => ?_, ?_,
    ⟨s.afterTick_faultCode, s.afterTick_faultCmd⟩, s.afterTick_inputs⟩
  · rw [State.afterTick_filter, State.dispatches_filter_notMem _ _ hf, State.answer_filter]
  · exact State.dispatches_filter_induct s.dueTargets (s.answer false) f
      (p := fun x => x.constructed = (s.filter f).constructed ∧
        x.activeLevel = (s.filter f).activeLevel)
      (fun _ _ => id) ⟨rfl, rfl⟩
  · exact State.dispatches_drawCount s.dueTargets (s.answer false)

theorem State.dispatch_rawDraws {s : State} {h : Handle} (hh : h.toNat < s.nf) :
    (s.dispatch h).rawDraws = s.rawDraws.tail := by
  rw [State.dispatch_internal hh]
  rfl

theorem State.nextSample_of_cons {s : State} {b : Bool} {rest : List Bool}
    (h : s.rawDraws = b :: rest) (f : Handle) : s.nextSample f = b := by
  rw [State.nextSample, h, List.headD_cons]

/-- Settles O41: the first dispatch draws `a`, and leaves `b` for the second (R62). -/
theorem duplicateTargetsAdvanceTwice : Obligations.DuplicateTargetsAdvanceTwice := by
  intro s f a b rest hf hdue hdraws
  let s₁ := (s.answer false).dispatch f
  have hf₁ : f.toNat < s₁.nf := hf.trans_eq (State.dispatch_nf (s.answer false) f).symm
  have hdraws₁ : s₁.rawDraws = b :: rest := by
    rw [State.dispatch_rawDraws (s := s.answer false) hf, State.answer_rawDraws, hdraws,
      List.tail_cons]
  have htwice : s.dueTargets.foldl State.dispatch (s.answer false) = s₁.dispatch f := by
    rw [hdue]; rfl
  refine ⟨s.afterTick, execSchTick_eq s, s.afterTick_trace.trans hdue, ?_, ?_⟩
  · rw [State.afterTick_filter, htwice, s₁.dispatch_filter_self f hf₁,
      State.nextSample_of_cons hdraws₁, State.dispatch_filter_self (s.answer false) f hf,
      State.nextSample_of_cons (s := s.answer false) hdraws, State.answer_filter]
  · change (s.dueTargets.foldl State.dispatch (s.answer false)).rawDraws = rest
    rw [htwice, State.dispatch_rawDraws hf₁, hdraws₁, List.tail_cons]

/-! ### What a command does to the scheduler (R149, R152) -/

/-- A command leaves the scheduler alone, adds a slot to it, or is a tick. -/
theorem exec_scheduler_cases {i : Instr} {s t : State} (h : exec i s = .next t) :
    (i ≠ .schTick ∧ SameScheduler s t) ∨
    (∃ g P, i = .schReg g P ∧ t = s.register (g, P)) ∨
    (i = .schTick ∧ t = s.afterTick) := by
  rcases exec_cases h with ⟨c, hcode, rfl⟩ | ⟨_, hdone⟩
  · refine .inl ⟨?_, rfl, rfl, rfl⟩
    rintro rfl
    exact c.code_ne_zero hcode.symm
  rcases hdone with ⟨r, rfl, hi⟩ | ⟨f, x, r, _, rfl, hi⟩ | ⟨f, rfl, _, rfl⟩ |
    ⟨g, P, rfl, _, _, rfl⟩ | htick
  · refine .inl ⟨?_, rfl, rfl, rfl⟩
    rcases hi with ⟨f, rfl⟩ | rfl | ⟨g, P, rfl, _⟩ <;> exact nofun
  · refine .inl ⟨?_, rfl, rfl, rfl⟩
    rcases hi with ⟨pol, rfl, _⟩ | ⟨rfl, _⟩ | ⟨rfl, _⟩ <;> exact nofun
  · exact .inl ⟨nofun, rfl, rfl, rfl⟩
  · exact .inr (.inl ⟨g, P, rfl, rfl⟩)
  · exact .inr (.inr htick)

/-- Settles O42: neither a registration nor a command that leaves the scheduler alone counts. -/
theorem onlySchTickCounts : Obligations.OnlySchTickCounts := by
  intro i s t h
  rcases exec_scheduler_cases h with ⟨hi, htick, _⟩ | ⟨g, P, rfl, rfl⟩ | ⟨rfl, rfl⟩
  · rw [if_neg hi, htick]
  · rfl
  · exact s.afterTick_tickCounter

/-- Slot `j` is in use and holds `x`. -/
def State.InUse (s : State) (j : Nat) (x : Slot) : Prop := j < s.count ∧ s.slots[j]? = some x

/-- A slot in use after a tick that entered with the counter at `tick` (R142). -/
def Slot.ticked (x : Slot) (tick : Tick) : Slot := if x.nextDue = tick then x.fired else x

/-- A slot in use stays in use, and only a tick moves it on. -/
theorem exec_inUse {i : Instr} {s t : State} {j : Nat} {x : Slot} (h : exec i s = .next t)
    (hx : s.InUse j x) : t.InUse j (if i = .schTick then x.ticked s.tickCounter else x) := by
  obtain ⟨hj, hslot⟩ := hx
  rcases exec_scheduler_cases h with ⟨hi, _, hcount, hslots⟩ | ⟨g, P, rfl, rfl⟩ | ⟨rfl, rfl⟩
  · rw [if_neg hi]
    exact ⟨hcount ▸ hj, hslots ▸ hslot⟩
  · exact ⟨Nat.lt_succ_of_lt hj, (List.getElem?_set_ne hj.ne').trans hslot⟩
  · rw [if_pos rfl]
    refine ⟨by rwa [s.afterTick_count], ?_⟩
    simp [scannedSlots_getElem?, hslot, hj, Slot.ticked]

/-- Settles O46: `exec_inUse`, and `count` by the scheduler's cases. -/
theorem registryOnlyGrows : Obligations.RegistryOnlyGrows := by
  intro i s t h _
  constructor
  · rcases exec_scheduler_cases h with ⟨_, _, hcount, _⟩ | ⟨g, P, rfl, rfl⟩ | ⟨rfl, rfl⟩
    · exact hcount.ge
    · exact Nat.le_succ _
    · exact s.afterTick_count.ge
  · intro j hj x hx
    obtain ⟨_, hslot⟩ := exec_inUse h ⟨hj, hx⟩
    refine ⟨_, hslot, ?_⟩
    by_cases hi : i = .schTick
    · by_cases hdue : x.nextDue = s.tickCounter <;> simp [hi, hdue, Slot.ticked, Slot.fired]
    · simp [hi]

/-! ### A full registry (R150) -/

section
variable (regs : List (Handle × Tick)) (s : State)

theorem State.registers_filters : (regs.foldl State.register s).filters = s.filters := by
  induction regs generalizing s with
  | nil => rfl
  | cons r regs ih => exact ih _

theorem State.registers_count :
    (regs.foldl State.register s).count = s.count + regs.length := by
  induction regs generalizing s with
  | nil => rfl
  | cons r regs ih =>
    rw [List.foldl_cons, ih, List.length_cons, Nat.add_comm regs.length, ← Nat.add_assoc]
    rfl

theorem State.register_cap (r : Handle × Tick) : (s.register r).cap = s.cap := List.length_set

theorem State.registers_cap : (regs.foldl State.register s).cap = s.cap := by
  induction regs generalizing s with
  | nil => rfl
  | cons r regs ih => rw [List.foldl_cons, ih, State.register_cap]

variable {regs s}

/-- While slots are free, registrations in a row all succeed. -/
theorem execAll_schReg (hfree : s.count + regs.length ≤ s.cap)
    (hc : ∀ r ∈ regs, r.1.toNat < s.nf → (s.filter r.1).constructed = true) :
    execAll (regs.map fun r => .schReg r.1 r.2) s = .next (regs.foldl State.register s) := by
  induction regs generalizing s with
  | nil => rfl
  | cons r regs ih =>
    rw [List.length_cons] at hfree
    rw [List.map_cons, execAll, execSchReg_free (hc r List.mem_cons_self) (by omega)]
    refine ih ?_ fun q hq => hc q (List.mem_cons_of_mem r hq)
    rw [State.register_cap]
    change s.count + 1 + _ ≤ _
    omega

end

/-- Settles O47: after `k` registrations `count` is `k`, and with `k` = CAP the registry is full. -/
theorem capacityRegistrationsSucceed : Obligations.CapacityRegistrationsSucceed := by
  intro s regs hcount hlen hc
  constructor
  · intro k hk
    have hk' : k < regs.length := hlen ▸ hk
    refine ⟨_, execAll_schReg ?_ fun r hr => hc r (List.mem_of_mem_take hr), ?_, ?_⟩
    · rw [List.length_take]; omega
    · rw [List.take_succ_eq_append_getElem hk', List.foldl_append]; rfl
    · rw [State.registers_count, List.length_take]; omega
  · have hfull : (regs.foldl State.register s).count = s.cap := by
      rw [State.registers_count, hcount, hlen, Nat.zero_add]
    refine ⟨_, execAll_schReg (by omega) hc, hfull, fun h P hcons => ?_⟩
    refine ⟨_, execSchReg_full ?_ (hfull.trans (State.registers_cap regs s).symm), rfl, hfull, rfl⟩
    rwa [State.nf_congr (State.registers_filters regs s),
      State.filter_congr (State.registers_filters regs s)]

/-! ### The history of a slot -/

/-- A slot in use after `n` ticks, the first of which enters with the counter at `tick`. -/
def Slot.afterTicks (x : Slot) (tick : Tick) : Nat → Slot
  | 0 => x
  | n + 1 => (x.ticked tick).afterTicks (tick + 1) n

theorem execAll_cons {i : Instr} {cmds : List Instr} {s t : State}
    (h : execAll (i :: cmds) s = .next t) :
    ∃ u, exec i s = .next u ∧ execAll cmds u = .next t := by
  obtain ⟨u, hu⟩ := exec_answersNext i s
  rw [execAll, hu] at h
  exact ⟨u, hu, h⟩

/-- A counter after `n + 1` ticks, counted from the first. -/
theorem tick_add_succ (tick : Tick) (n : Nat) :
    tick + BitVec.ofNat 32 (n + 1) = tick + 1 + BitVec.ofNat 32 n := by
  rw [BitVec.ofNat_add, BitVec.add_comm (BitVec.ofNat 32 n), ← BitVec.add_assoc]
  rfl

theorem execAll_tickCounter {cmds : List Instr} {s t : State} (h : execAll cmds s = .next t) :
    t.tickCounter = s.tickCounter + BitVec.ofNat 32 (cmds.count .schTick) := by
  induction cmds generalizing s with
  | nil =>
    obtain rfl := next_inj h
    exact (BitVec.add_zero _).symm
  | cons i cmds ih =>
    obtain ⟨u, hexec, hrest⟩ := execAll_cons h
    rw [ih hrest, onlySchTickCounts i s u hexec]
    by_cases hi : i = .schTick
    · rw [if_pos hi, hi, List.count_cons_self, tick_add_succ]
    · rw [if_neg hi, List.count_cons_of_ne hi]

/-- Whatever commands come between, a slot in use depends on the number of ticks alone. -/
theorem execAll_inUse {cmds : List Instr} {s t : State} {j : Nat} {x : Slot}
    (h : execAll cmds s = .next t) (hx : s.InUse j x) :
    t.InUse j (x.afterTicks s.tickCounter (cmds.count .schTick)) := by
  induction cmds generalizing s x with
  | nil =>
    obtain rfl := next_inj h
    exact hx
  | cons i cmds ih =>
    obtain ⟨u, hexec, hrest⟩ := execAll_cons h
    have hlater := ih hrest (exec_inUse hexec hx)
    rw [onlySchTickCounts i s u hexec] at hlater
    by_cases hi : i = .schTick
    · rw [if_pos hi, if_pos hi] at hlater
      rwa [hi, List.count_cons_self]
    · rw [if_neg hi, if_neg hi] at hlater
      rwa [List.count_cons_of_ne hi]

theorem State.fires_iff {s : State} {j : Nat} {x : Slot} (hx : s.InUse j x) :
    s.fires j ↔ x.nextDue = s.tickCounter := by
  obtain ⟨hj, hslot⟩ := hx
  simp [State.fires, hj, hslot]

section
variable (x : Slot) (tick : Tick)

@[simp] theorem Slot.ticked_period : (x.ticked tick).period = x.period := by
  rw [Slot.ticked]; split <;> rfl

@[simp] theorem Slot.afterTicks_period (n : Nat) : (x.afterTicks tick n).period = x.period := by
  induction n generalizing x tick with
  | zero => rfl
  | succ n ih => rw [Slot.afterTicks, ih, Slot.ticked_period]

/-- With period 0 a fire changes nothing (R146). -/
theorem Slot.fired_of_period_zero (hP : x.period = 0) : x.fired = x := by
  obtain ⟨target, period, nextDue⟩ := x
  obtain rfl : period = 0 := hP
  exact congrArg (Slot.mk target 0) (BitVec.add_zero nextDue)

theorem Slot.afterTicks_of_period_zero (hP : x.period = 0) (n : Nat) : x.afterTicks tick n = x := by
  induction n generalizing tick with
  | zero => rfl
  | succ n ih =>
    have hstay : x.ticked tick = x := by rw [Slot.ticked, x.fired_of_period_zero hP, ite_self]
    rw [Slot.afterTicks, hstay, ih]

/-- How many ticks do not fire the slot before the first that does. -/
def Slot.wait : Nat := (x.nextDue - tick).toNat

/-- How many ticks lie between two fires: the period, and the counter's whole range for period 0 (R145, R146). -/
def Slot.interval : Nat := if x.period.toNat = 0 then 2 ^ 32 else x.period.toNat

theorem Slot.wait_eq_zero_iff : x.wait tick = 0 ↔ x.nextDue = tick := by
  rw [Slot.wait]; bv_omega

theorem Slot.interval_pos : 0 < x.interval := by
  rw [Slot.interval]; split <;> omega

variable {x tick}

theorem Slot.wait_ticked_of_due (h : x.nextDue = tick) :
    (x.ticked tick).wait (tick + 1) + 1 = x.interval := by
  rw [Slot.ticked, if_pos h, Slot.wait, Slot.interval]
  change (x.nextDue + x.period - (tick + 1)).toNat + 1 = _
  split <;> bv_omega

theorem Slot.wait_ticked_of_not_due (h : x.nextDue ≠ tick) :
    (x.ticked tick).wait (tick + 1) + 1 = x.wait tick := by
  rw [Slot.ticked, if_neg h, Slot.wait, Slot.wait]
  bv_omega

theorem Slot.interval_ticked : (x.ticked tick).interval = x.interval := by
  rw [Slot.interval, Slot.interval, Slot.ticked_period]

/-- After `n` ticks the slot is due exactly when they are the wait and a number of whole intervals: one tick takes one off the wait, and a fire starts an interval (R144-R147). -/
theorem Slot.due_afterTicks_iff (n : Nat) :
    (x.afterTicks tick n).nextDue = tick + BitVec.ofNat 32 n ↔
      ∃ k, n = x.wait tick + k * x.interval := by
  induction n generalizing x tick with
  | zero =>
    rw [Slot.afterTicks, BitVec.add_zero, ← Slot.wait_eq_zero_iff]
    exact ⟨fun h => ⟨0, by omega⟩, fun ⟨k, h⟩ => by omega⟩
  | succ n ih =>
    rw [Slot.afterTicks, tick_add_succ, ih, Slot.interval_ticked]
    by_cases hdue : x.nextDue = tick
    · have hwait := (x.wait_eq_zero_iff tick).2 hdue
      have hnext := Slot.wait_ticked_of_due hdue
      constructor
      · rintro ⟨k, hk⟩
        exact ⟨k + 1, by rw [Nat.succ_mul]; omega⟩
      · rintro ⟨_ | k, hk⟩
        · omega
        · rw [Nat.succ_mul] at hk
          exact ⟨k, by omega⟩
    · have hnext := Slot.wait_ticked_of_not_due hdue
      exact exists_congr fun k => by omega

end

/-! ### The laws of firing (R144-R147) -/

section
variable {s u t : State} {h : Handle} {P : Tick} {cmds : List Instr}

/-- The slot that SCH_REG has just added, whatever has been executed since. -/
theorem registered_inUse (hfits : s.count ≤ s.cap) (hreg : exec (.schReg h P) s = .next u)
    (hres : u.res = true) (hcmds : execAll cmds u = .next t) :
    t.InUse s.count (Slot.afterTicks ⟨h, P, P⟩ s.tickCounter (cmds.count .schTick)) ∧
    t.tickCounter = s.tickCounter + BitVec.ofNat 32 (cmds.count .schTick) := by
  obtain ⟨hfree, rfl⟩ := eq_register_of_execSchReg hreg hres
  have hslot : (s.register (h, P)).InUse s.count ⟨h, P, P⟩ :=
    ⟨Nat.lt_succ_self _, List.getElem?_set_self (lt_of_le_of_ne hfits hfree)⟩
  exact ⟨execAll_inUse (s := s.register (h, P)) hcmds hslot,
    execAll_tickCounter (s := s.register (h, P)) hcmds⟩

/-- When a registered slot fires: after a wait of `P - c0` modulo 2^32, and then at every interval. -/
theorem registered_fires_iff (hfits : s.count ≤ s.cap) (hreg : exec (.schReg h P) s = .next u)
    (hres : u.res = true) (hcmds : execAll cmds u = .next t) :
    t.fires s.count ↔ ∃ k, cmds.count .schTick =
      (P - s.tickCounter).toNat + k * (if P.toNat = 0 then 2 ^ 32 else P.toNat) := by
  obtain ⟨hslot, htick⟩ := registered_inUse hfits hreg hres hcmds
  rw [State.fires_iff hslot, htick]
  exact Slot.due_afterTicks_iff _

end

/-- Settles O48: registered at c0 <= P the slot waits `P - c0` ticks. -/
theorem firstFireIsAtThePeriod : Obligations.FirstFireIsAtThePeriod := by
  intro s u t h P cmds hfits hreg hres _ hle hcmds
  have hwait : (P - s.tickCounter).toNat = P.toNat - s.tickCounter.toNat :=
    BitVec.toNat_sub_of_le hle
  rw [registered_fires_iff hfits hreg hres hcmds, hwait]
  constructor
  · rintro hlt ⟨k, hk⟩
    omega
  · intro hn
    obtain ⟨_, htick⟩ := registered_inUse hfits hreg hres hcmds
    refine ⟨⟨0, by omega⟩, ?_⟩
    rw [htick, hn, ← hwait, BitVec.ofNat_toNat, BitVec.setWidth_eq, BitVec.add_comm,
      BitVec.sub_add_cancel]

/-- Settles O49: registered at counter 0 the wait is one period too, so the fires are at the positive multiples. -/
theorem firesAtExactMultiples : Obligations.FiresAtExactMultiples := by
  intro s u t h P cmds hfits hzero hreg hres hpos hcmds
  have hwait : (P - s.tickCounter).toNat = P.toNat := by
    rw [hzero]
    exact congrArg BitVec.toNat (BitVec.sub_zero P)
  constructor
  · rw [registered_fires_iff hfits hreg hres hcmds, hwait, if_neg hpos.ne']
    constructor
    · rintro ⟨k, hk⟩
      exact ⟨k + 1, by omega, by rw [Nat.succ_mul]; omega⟩
    · rintro ⟨k, hk, hn⟩
      obtain ⟨k, rfl⟩ := Nat.exists_eq_add_of_le' hk
      exact ⟨k, by rw [hn, Nat.succ_mul, Nat.add_comm]⟩
  · intro hfires
    obtain ⟨hslot, _⟩ := registered_inUse hfits hreg hres hcmds
    have hdue := (State.fires_iff hslot).1 hfires
    have ⟨_, hnow⟩ := hslot
    obtain ⟨_, hnext⟩ := exec_inUse (execSchTick_eq t) hslot
    refine ⟨_, t.afterTick, hnow, execSchTick_eq t, hnext.trans ?_⟩
    rw [if_pos rfl, Slot.ticked, if_pos hdue, Slot.fired, Slot.afterTicks_period]

/-- Settles O50: the slot never changes, so it fires when the counter is 0. -/
theorem periodZeroFiresOncePerWrap : Obligations.PeriodZeroFiresOncePerWrap := by
  intro s u t h cmds hfits hreg hres hcmds
  obtain ⟨hslot, htick⟩ := registered_inUse hfits hreg hres hcmds
  rw [Slot.afterTicks_of_period_zero _ _ rfl] at hslot
  have ⟨_, hstays⟩ := hslot
  refine ⟨hstays, ?_⟩
  rw [State.fires_iff hslot, htick]
  change 0 = _ ↔ _
  rw [eq_comm, ← BitVec.toNat_inj, BitVec.toNat_add, BitVec.toNat_ofNat, Nat.add_mod_mod]
  rfl

/-- Settles O51: registered at c0 > P the wait is what remains of the counter's range. -/
theorem noCatchUp : Obligations.NoCatchUp := by
  intro s u t h P cmds hfits hreg hres hlt hcmds
  have hwait : (P - s.tickCounter).toNat = 2 ^ 32 - (s.tickCounter.toNat - P.toNat) := by
    bv_omega
  rw [registered_fires_iff hfits hreg hres hcmds, hwait]

end Sys2Proof.Machine
end

section
/-! PROOFS. The faults of spec/60_exceptions.md: which check a command reports (R181), what its fault leaves unchanged (R182), and the halted block (R183). -/

namespace Sys2Proof.Machine

/-! ### Fault or no fault (R180, R181) -/

theorem FaultCause.code_cases (c : FaultCause) : c.code = 0x1 ∨ c.code = 0x2 ∨ c.code = 0x3 := by
  cases c <;> decide

/-- A command enters the fault of its first failing check, or passes its checks and raises none. -/
theorem exec_fault_cases {i : Instr} {s t : State} (h : exec i s = .next t) :
    (∃ c : FaultCause, s.failedCheck i = c.code ∧ t = s.raiseFault c (encode i)) ∨
    (s.failedCheck i = 0 ∧ t.faultCode = s.faultCode) := by
  rcases exec_cases h with hfault | ⟨hpass, hdone⟩
  · exact .inl hfault
  refine .inr ⟨hpass, ?_⟩
  rcases hdone with ⟨r, rfl, _⟩ | ⟨f, x, r, _, rfl, _⟩ | ⟨f, _, _, rfl⟩ | ⟨g, P, _, _, _, rfl⟩ |
    ⟨_, rfl⟩
  · rfl
  · rfl
  · rfl
  · rfl
  · exact s.afterTick_faultCode

theorem exec_faultCode_of_running {i : Instr} {s t : State} (h : exec i s = .next t)
    (hrun : s.faultCode = 0) : t.faultCode = s.failedCheck i := by
  rcases exec_fault_cases h with ⟨c, hcode, rfl⟩ | ⟨hpass, hkept⟩
  · exact hcode.symm
  · rw [hkept, hrun, hpass]

theorem State.withInputs_failedCheck (s : State) (l : List Input) (i : Instr) :
    (s.withInputs l).failedCheck i = s.failedCheck i := rfl

/-! ### The step of a command word (R181-R183) -/

/-- Settles O8: the step of a halted block, whatever the word and the agent. -/
theorem haltedBlockIgnoresCommands : Obligations.HaltedBlockIgnoresCommands :=
  fun _ _ _ _ hin hhalted => step_halted hin rfl hhalted

/-- Settles O12: one clause for each way a step answers a command word; past the decode the code is that of the command's own checks, and SCH_REG answers 1 only when it finds a free slot. -/
theorem firstFailingCheckIsReported : Obligations.FirstFailingCheckIsReported := by
  intro s a w rest hin
  obtain ⟨t, ht⟩ := step_answersNext s
  have hexec {i : Instr} (hrun : s.faultCode = 0) (hd : decode w = .ok i) :
      exec i (s.withInputs rest) = .next t := (step_legal hin rfl hrun hd).symm.trans ht
  have hcode {i : Instr} (hrun : s.faultCode = 0) (hd : decode w = .ok i) :
      t.faultCode = s.failedCheck i := by
    rw [exec_faultCode_of_running (hexec hrun hd) hrun, State.withInputs_failedCheck]
  refine ⟨t, ht, fun hhalted => ?_, fun hrun e he => ?_, fun hrun i hd => hcode hrun hd,
    fun hrun h P hd hpass hfull => ⟨?_, (hcode hrun hd).trans hpass⟩⟩
  · obtain rfl := next_inj ((step_halted hin rfl hhalted).symm.trans ht)
    exact ⟨rfl, rfl⟩
  · obtain rfl := next_inj ((step_illegal hin rfl hrun he).symm.trans ht)
    rfl
  · exact Bool.eq_false_iff.2 fun hres => (eq_register_of_execSchReg (hexec hrun hd) hres).1 hfull

/-- A fault is entered with the word that was presented, which is the word of the command it decoded to. -/
theorem step_eq_raiseFault {s t : State} {x : Input} {w : Word} {rest : List Input}
    (hin : s.inputs = x :: rest) (hw : x.word? = some w) (hrun : s.faultCode = 0)
    (ht : step s = .next t) (hfault : t.faultCode ≠ 0) :
    ∃ c : FaultCause, t = (s.withInputs rest).raiseFault c w := by
  cases hd : decode w with
  | error e => exact ⟨.illegalCmd, next_inj (ht.symm.trans (step_illegal hin hw hrun hd))⟩
  | ok i =>
    have hexec := (step_legal hin hw hrun hd).symm.trans ht
    rcases exec_fault_cases hexec with ⟨c, _, hc⟩ | ⟨_, hkept⟩
    · exact ⟨c, encodeOfDecodeIsTheWord w i hd ▸ hc⟩
    · exact absurd (hkept.trans hrun) hfault

/-- Settles O13: the step is a fault entry with the presented word, which writes the fault registers and the outputs alone. -/
theorem faultEntryIsPrecise : Obligations.FaultEntryIsPrecise := by
  intro s t a w rest hin hrun ht hfault
  obtain ⟨c, rfl⟩ := step_eq_raiseFault hin rfl hrun ht hfault
  exact ⟨c.code_cases, rfl⟩

end Sys2Proof.Machine
end

section
/-! PROOFS. Reset and hazards, spec/70_reset_and_hazards.md: what the reset step sets (R210), what no other step can do (R211), and how far apart two edges of one filter are (R218). -/

namespace Sys2Proof.Machine

/-! ### The reset step (R210) -/

/-- Settles O9: the step is `applyReset` on the state with that input taken. -/
theorem resetStepSetsResetValues : Obligations.ResetStepSetsResetValues := by
  intro s rest hin
  exact ⟨_, step_reset hin, State.applyReset_nf _, State.applyReset_cap _,
    fun f => congrArg (·.constructed) (State.applyReset_filter _ f), rfl, rfl, rfl, rfl, rfl, rfl⟩

/-! ### Only reset goes back (R211) -/

/-- The scheduler goes forward: no slot leaves use, and the counter stays or counts one tick. -/
structure State.SchedulerForward (s t : State) : Prop where
  count_le : s.count ≤ t.count
  tickCounter : t.tickCounter = s.tickCounter ∨ t.tickCounter = s.tickCounter + 1

theorem State.SchedulerForward.of_eq {s t : State} (hcount : t.count = s.count)
    (htick : t.tickCounter = s.tickCounter) : s.SchedulerForward t :=
  ⟨hcount.ge, .inl htick⟩

/-- Counting one tick reaches 0 by the wrap alone (R28). -/
theorem State.SchedulerForward.tickCounter_eq_zero {s t : State} (h : s.SchedulerForward t)
    (hzero : t.tickCounter = 0) : s.tickCounter = 0 ∨ s.tickCounter = 0xFFFFFFFF#32 := by
  rcases h.tickCounter with hsame | hnext
  · exact .inl (hsame ▸ hzero)
  · exact .inr (eq_neg_of_add_eq_zero_left (hnext.symm.trans hzero))

theorem exec_schedulerForward {i : Instr} {s t : State} (h : exec i s = .next t) :
    s.SchedulerForward t := by
  rcases exec_scheduler_cases h with ⟨_, htick, hcount, _⟩ | ⟨g, P, _, rfl⟩ | ⟨_, rfl⟩
  · exact .of_eq hcount htick
  · exact ⟨Nat.le_succ _, .inl rfl⟩
  · exact ⟨s.afterTick_count.ge, .inr s.afterTick_tickCounter⟩

section
variable {s t : State} (h : step s = .next t) (hin : s.inputs.head? ≠ some .reset)
include h hin

/-- Without reset a halted block keeps its fault (R183, R184). -/
theorem step_sameFaultRegs_of_halted (hhalted : s.faultCode ≠ 0) : SameFaultRegs s t := by
  rcases step_cases h with ⟨_, rfl⟩ | ⟨_, _, _, _, _, rfl⟩ | ⟨_, hreset, _⟩ | ⟨_, _, _, _, _, hword⟩
  · exact ⟨rfl, rfl⟩
  · exact ⟨rfl, rfl⟩
  · exact absurd (congrArg List.head? hreset) hin
  · rcases hword with ⟨_, rfl⟩ | ⟨hrun, _⟩ | ⟨hrun, _⟩
    · exact ⟨rfl, rfl⟩
    · exact absurd hrun hhalted
    · exact absurd hrun hhalted

theorem step_schedulerForward : s.SchedulerForward t := by
  rcases step_cases h with ⟨_, rfl⟩ | ⟨_, _, _, _, _, rfl⟩ | ⟨_, hreset, _⟩ | ⟨_, _, _, _, _, hword⟩
  · exact .of_eq rfl rfl
  · exact .of_eq rfl rfl
  · exact absurd (congrArg List.head? hreset) hin
  · rcases hword with ⟨_, rfl⟩ | ⟨_, _, rfl⟩ | ⟨_, i, _, hexec⟩
    · exact .of_eq rfl rfl
    · exact .of_eq rfl rfl
    · obtain ⟨hcount, htick⟩ := exec_schedulerForward hexec
      exact ⟨hcount, htick⟩

end

/-- Settles O11: a reset step clears the three fields, and by `step_cases` any other step keeps a fault and takes the scheduler forward. -/
theorem resetIsTheOnlyWayBack : Obligations.ResetIsTheOnlyWayBack := by
  refine ⟨fun s rest hin => ⟨_, step_reset hin, rfl, rfl, rfl⟩, fun s t h hin => ?_⟩
  have hforward := step_schedulerForward h hin
  exact ⟨step_sameFaultRegs_of_halted h hin, hforward.count_le, hforward.tickCounter_eq_zero⟩

/-! ### Edges are far apart (R218) -/

/-- An advance with sample `b` takes the level from the other one to `v`. -/
structure DebounceFilter.MovesTo (x : DebounceFilter) (v b : Bool) : Prop where
  state_before : x.state = !v
  state_after : (x.advance b).state = v

theorem DebounceFilter.movesTo_iff (x : DebounceFilter) (v b : Bool) :
    x.MovesTo v b ↔ x.state = !v ∧ (x.advance b).state = v :=
  ⟨fun h => ⟨h.state_before, h.state_after⟩, fun ⟨hbefore, hafter⟩ => ⟨hbefore, hafter⟩⟩

theorem DebounceFilter.setsRise_iff_movesTo {x : DebounceFilter} (hprev : x.prevState = x.state)
    (b : Bool) : x.setsRise b = true ↔ x.MovesTo true b := by
  simp [DebounceFilter.setsRise, DebounceFilter.movesTo_iff, hprev, and_comm]

theorem DebounceFilter.setsFall_iff_movesTo {x : DebounceFilter} (hprev : x.prevState = x.state)
    (b : Bool) : x.setsFall b = true ↔ x.MovesTo false b := by
  simp [DebounceFilter.setsFall, DebounceFilter.movesTo_iff, hprev, and_comm]

/-- A move leaves eight samples of the new level in the window (R107). -/
theorem DebounceFilter.MovesTo.window {x : DebounceFilter} {v b : Bool} (h : x.MovesTo v b) :
    (x.advance b).window = unanimousWindow v := by
  have hne : (x.advance b).state ≠ x.state := by
    rw [h.state_before, h.state_after]
    exact (Bool.not_ne_self v).symm
  rw [(x.advance_state_ne_iff b).1 hne, h.state_before, Bool.not_not]

/-- From a window unanimous at one level to a window unanimous at the other every bit is shifted out. -/
theorem DebounceFilter.eight_le_length_of_window_opposite {x : DebounceFilter} {v : Bool}
    {l : List Bool} (hx : x.window = unanimousWindow v)
    (hl : (x.advances l).window = unanimousWindow (!v)) : 8 ≤ l.length := by
  by_contra hlt
  have hlen : l.length < 8 := by omega
  have hbit := x.advances_window_bit l hlen
  rw [(window_eq_unanimous _ _).1 hl _ hlen, List.getD_eq_default _ _ l.length_reverse.le,
    Nat.sub_self, (window_eq_unanimous _ _).1 hx _ (by decide)] at hbit
  exact Bool.not_ne_self v hbit

/-- When samples have changed the level, some first part of them made the window unanimous at the other one. -/
theorem DebounceFilter.exists_window_opposite_of_state_ne {x : DebounceFilter} {l : List Bool}
    (h : (x.advances l).state ≠ x.state) :
    ∃ l₁ l₂, l = l₁ ++ l₂ ∧ (x.advances l₁).window = unanimousWindow (!x.state) := by
  induction l generalizing x with
  | nil => exact absurd rfl h
  | cons b l ih =>
    by_cases hb : (x.advance b).state = x.state
    · obtain ⟨l₁, l₂, rfl, hw⟩ := ih (x := x.advance b) (hb ▸ h)
      exact ⟨b :: l₁, l₂, rfl, hb ▸ hw⟩
    · exact ⟨[b], l, rfl, (x.advance_state_ne_iff b).1 hb⟩

section
variable {y : DebounceFilter} {v b c : Bool} {between : List Bool} (hb : y.MovesTo v b)
include hb

/-- A move and the next move the other way have at least 7 advances between them. -/
theorem DebounceFilter.MovesTo.seven_le_length
    (hc : (y.advances (b :: between)).MovesTo (!v) c) : 7 ≤ between.length := by
  have hfar := DebounceFilter.eight_le_length_of_window_opposite (l := between ++ [c]) hb.window
    (by rw [DebounceFilter.advances_snoc]; exact hc.window)
  rw [List.length_append, List.length_singleton] at hfar
  omega

/-- Between two moves to one level the window was unanimous at the other, at least 8 advances from each. -/
theorem DebounceFilter.MovesTo.fifteen_le_length
    (hc : (y.advances (b :: between)).MovesTo v c) : 15 ≤ between.length := by
  have hne : ((y.advance b).advances between).state ≠ (y.advance b).state := by
    rw [hb.state_after, ← DebounceFilter.advances_cons, hc.state_before]
    exact Bool.not_ne_self v
  obtain ⟨l₁, l₂, rfl, hmid⟩ := DebounceFilter.exists_window_opposite_of_state_ne hne
  rw [hb.state_after] at hmid
  have hfirst := DebounceFilter.eight_le_length_of_window_opposite hb.window hmid
  have hsecond := DebounceFilter.eight_le_length_of_window_opposite (l := l₂ ++ [c]) hmid
    (by
      rw [DebounceFilter.advances_snoc, ← DebounceFilter.advances_append, Bool.not_not]
      exact hc.window)
  rw [List.length_append, List.length_singleton] at hsecond
  rw [List.length_append]
  omega

end

/-- Settles O35: setting a latch is a move of the level, to 1 for `rise` and to 0 for `fall`. -/
theorem edgesAreSixteenAdvancesApart : Obligations.EdgesAreSixteenAdvancesApart := by
  intro x before between b c hprev
  have hrise (l d) :=
    DebounceFilter.setsRise_iff_movesTo (DebounceFilter.advances_prevState hprev l) d
  have hfall (l d) :=
    DebounceFilter.setsFall_iff_movesTo (DebounceFilter.advances_prevState hprev l) d
  simp only [hrise, hfall]
  rw [DebounceFilter.advances_append]
  exact ⟨fun hb => ⟨hb.fifteen_le_length, hb.seven_le_length⟩,
    fun hb => ⟨hb.fifteen_le_length, hb.seven_le_length⟩⟩

end Sys2Proof.Machine
end
